-- ==== Sys2Proof/Word.lean ====
section
/-! DEFINITION. The words of the block: bytes, 32-bit bus words, 8-bit offsets and 41-bit access descriptors. -/

namespace Sys2Proof

/-- One byte of the pixel buffer, the raw stream or the file. -/
abbrev Byte := BitVec 8

/-- The data of one host access, and every host-visible register (10_state.md R23). -/
abbrev Word := BitVec 32

/-- A byte offset in the register window (30_encoding.md R90, field OFFSET). -/
abbrev Offset := BitVec 8

/-- One host access, `RW ‖ OFFSET ‖ DATA` (30_encoding.md R90). -/
abbrev Descriptor := BitVec 41

end Sys2Proof
end

