-- ==== Sys2Proof/Syntax.lean ====
section
/-! DEFINITION. The instruction set: one constructor for each of the 16 rows of opcode_table.json. -/

namespace Sys2Proof

/-- A host access, by its row of opcode_table.json. A read keeps the DATA field that 30_encoding.md R90 tells the block
to ignore, so that a descriptor and its instruction carry the same bits. -/
inductive Instr where
  /-- CMD.NOP (40_host_commands.md R121). -/
  | cmdNop
  /-- CMD.START (R122). -/
  | cmdStart
  /-- CMD.FINISH (R123). -/
  | cmdFinish
  /-- CMD.ABORT (R124). -/
  | cmdAbort
  /-- CMD.ILLEGAL (R125): a CMD write of any DATA but 0 to 3. -/
  | cmdIllegal (data : Word)
  /-- WR.WIDTH (R126). -/
  | wrWidth (data : Word)
  /-- WR.HEIGHT (R127). -/
  | wrHeight (data : Word)
  /-- WR.DIN (R128). -/
  | wrDin (data : Word)
  /-- RD.STATUS (R129). -/
  | rdStatus (ignored : Word)
  /-- RD.WIDTH (R130). -/
  | rdWidth (ignored : Word)
  /-- RD.HEIGHT (R131). -/
  | rdHeight (ignored : Word)
  /-- RD.DOUT (R132). -/
  | rdDout (ignored : Word)
  /-- RD.IN_COUNT (R133). -/
  | rdInCount (ignored : Word)
  /-- RD.OUT_LEVEL (R134). -/
  | rdOutLevel (ignored : Word)
  /-- RD.FILE_LEN (R135). -/
  | rdFileLen (ignored : Word)
  /-- RAZWI (30_encoding.md R98): every access that no other row matches. -/
  | razwi (write : Bool) (offset : Offset) (data : Word)
  deriving DecidableEq, Repr

/-- The instruction's mnemonic, as opcode_table.json spells it. -/
def Instr.mnemonic : Instr → String
  | .cmdNop => "CMD.NOP"
  | .cmdStart => "CMD.START"
  | .cmdFinish => "CMD.FINISH"
  | .cmdAbort => "CMD.ABORT"
  | .cmdIllegal _ => "CMD.ILLEGAL"
  | .wrWidth _ => "WR.WIDTH"
  | .wrHeight _ => "WR.HEIGHT"
  | .wrDin _ => "WR.DIN"
  | .rdStatus _ => "RD.STATUS"
  | .rdWidth _ => "RD.WIDTH"
  | .rdHeight _ => "RD.HEIGHT"
  | .rdDout _ => "RD.DOUT"
  | .rdInCount _ => "RD.IN_COUNT"
  | .rdOutLevel _ => "RD.OUT_LEVEL"
  | .rdFileLen _ => "RD.FILE_LEN"
  | .razwi _ _ _ => "RAZWI"

end Sys2Proof
end

