-- ==== Sys2Proof/WellFormed.lean ====
section
/-! DEFINITION. When a term of `Instr` is an access the encoding can express: the two fallback rows hold only what no
other row matches. -/

namespace Sys2Proof

/-- A DATA value that selects one of the four commands (30_encoding.md R93). -/
def isCommandWord (data : Word) : Bool :=
  data == 0x00000000#32 || data == 0x00000001#32 || data == 0x00000002#32 || data == 0x00000003#32

/-- The accesses that 30_encoding.md R98 lists as read-as-zero, write-ignored: a misaligned offset, an offset from 0x24
up, a read of CMD or DIN, a write to STATUS, DOUT, IN_COUNT, OUT_LEVEL or FILE_LEN. -/
def isRazwi (write : Bool) (offset : Offset) : Bool :=
  offset.toNat % 4 != 0 || decide (0x24 ≤ offset.toNat) ||
  (!write && (offset == 0x00#8 || offset == 0x10#8)) ||
  (write && (offset == 0x04#8 || offset == 0x14#8 || offset == 0x18#8 || offset == 0x1C#8 || offset == 0x20#8))

/-- The checks on an instruction: CMD.ILLEGAL carries no command word (30_encoding.md R94), RAZWI is one of the accesses
of R98. Every other constructor is well formed with any operand. -/
def Instr.wellFormed : Instr → Bool
  | .cmdNop => true
  | .cmdStart => true
  | .cmdFinish => true
  | .cmdAbort => true
  | .cmdIllegal data => !isCommandWord data
  | .wrWidth _ => true
  | .wrHeight _ => true
  | .wrDin _ => true
  | .rdStatus _ => true
  | .rdWidth _ => true
  | .rdHeight _ => true
  | .rdDout _ => true
  | .rdInCount _ => true
  | .rdOutLevel _ => true
  | .rdFileLen _ => true
  | .razwi write offset _ => isRazwi write offset

end Sys2Proof
end

