-- ==== Sys2Proof/Decode.lean ====
section
/-! DEFINITION. Decoding and encoding of host accesses (30_encoding.md R90 to R98), and the rows of opcode_table.json. -/

namespace Sys2Proof

/-! ## The descriptor's fields (30_encoding.md R90) -/

/-- RW, bit 40: true for a write. -/
def descriptorWrite (d : Descriptor) : Bool := d.getLsbD 40

/-- OFFSET, bits 39 to 32. -/
def descriptorOffset (d : Descriptor) : Offset := d.extractLsb' 32 8

/-- DATA, bits 31 to 0. -/
def descriptorData (d : Descriptor) : Word := d.extractLsb' 0 32

/-- The descriptor `RW ‖ OFFSET ‖ DATA`. -/
def descriptor (write : Bool) (offset : Offset) (data : Word) : Descriptor :=
  BitVec.ofBool write ++ offset ++ data

/-! ## Decoding -/

/-- A CMD write, by its whole 32-bit DATA (30_encoding.md R92 to R94). -/
def decodeCommand (data : Word) : Instr :=
  if data = 0x00000000#32 then .cmdNop
  else if data = 0x00000001#32 then .cmdStart
  else if data = 0x00000002#32 then .cmdFinish
  else if data = 0x00000003#32 then .cmdAbort
  else .cmdIllegal data

/-- A write, by its offset (10_state.md R23). -/
def decodeWrite (offset : Offset) (data : Word) : Instr :=
  if offset = 0x00#8 then decodeCommand data
  else if offset = 0x08#8 then .wrWidth data
  else if offset = 0x0C#8 then .wrHeight data
  else if offset = 0x10#8 then .wrDin data
  else .razwi true offset data

/-- A read, by its offset (10_state.md R23). -/
def decodeRead (offset : Offset) (data : Word) : Instr :=
  if offset = 0x04#8 then .rdStatus data
  else if offset = 0x08#8 then .rdWidth data
  else if offset = 0x0C#8 then .rdHeight data
  else if offset = 0x14#8 then .rdDout data
  else if offset = 0x18#8 then .rdInCount data
  else if offset = 0x1C#8 then .rdOutLevel data
  else if offset = 0x20#8 then .rdFileLen data
  else .razwi false offset data

/-- The decoder. It is total: every 41-bit value is an instruction (30_encoding.md R91). -/
def decode (d : Descriptor) : Instr :=
  if descriptorWrite d then decodeWrite (descriptorOffset d) (descriptorData d)
  else decodeRead (descriptorOffset d) (descriptorData d)

/-- Why a number is not decoded. -/
inductive DecodeError where
  /-- A bit above bit 40 is set: the number is no access descriptor (30_encoding.md R90). -/
  | notADescriptor
  deriving DecidableEq, Repr

/-- Decoding of a number of any size: a descriptor is decoded, anything wider is rejected by name. -/
def decodeWord (w : Nat) : Except DecodeError Instr :=
  if w < 2 ^ 41 then .ok (decode (BitVec.ofNat 41 w)) else .error .notADescriptor

/-- The host's question about one row of opcode_table.json: the instruction whose low `nbits` bits are `w` and whose
other bits are 0. The bus has no byte order (20_memory.md R65), so the number is the descriptor itself. -/
def decodeTableWord (nbits w : Nat) : Option Instr := (decodeWord (w % 2 ^ nbits)).toOption

/-! ## Encoding -/

/-- The descriptor of an instruction, by its row of opcode_table.json. -/
def encode : Instr → Descriptor
  | .cmdNop => descriptor true 0x00#8 0x00000000#32
  | .cmdStart => descriptor true 0x00#8 0x00000001#32
  | .cmdFinish => descriptor true 0x00#8 0x00000002#32
  | .cmdAbort => descriptor true 0x00#8 0x00000003#32
  | .cmdIllegal data => descriptor true 0x00#8 data
  | .wrWidth data => descriptor true 0x08#8 data
  | .wrHeight data => descriptor true 0x0C#8 data
  | .wrDin data => descriptor true 0x10#8 data
  | .rdStatus data => descriptor false 0x04#8 data
  | .rdWidth data => descriptor false 0x08#8 data
  | .rdHeight data => descriptor false 0x0C#8 data
  | .rdDout data => descriptor false 0x14#8 data
  | .rdInCount data => descriptor false 0x18#8 data
  | .rdOutLevel data => descriptor false 0x1C#8 data
  | .rdFileLen data => descriptor false 0x20#8 data
  | .razwi write offset data => descriptor write offset data

/-! ## The rows of opcode_table.json -/

/-- One row of opcode_table.json. -/
structure Row where
  mnemonic : String
  pattern : Descriptor
  mask : Descriptor
  fallback : Bool
  deriving DecidableEq, Repr

/-- The row matches the descriptor: `(A & mask) = match` (30_encoding.md R91). -/
def Row.hits (r : Row) (d : Descriptor) : Bool := d &&& r.mask == r.pattern

/-- opcode_table.json, in its order; CMD.ILLEGAL stands before RAZWI, as R91 tries them. -/
def opcodeTable : List Row := [
  ⟨"CMD.NOP", 0x10000000000#41, 0x1FFFFFFFFFF#41, false⟩,
  ⟨"CMD.START", 0x10000000001#41, 0x1FFFFFFFFFF#41, false⟩,
  ⟨"CMD.FINISH", 0x10000000002#41, 0x1FFFFFFFFFF#41, false⟩,
  ⟨"CMD.ABORT", 0x10000000003#41, 0x1FFFFFFFFFF#41, false⟩,
  ⟨"CMD.ILLEGAL", 0x10000000000#41, 0x1FF00000000#41, true⟩,
  ⟨"WR.WIDTH", 0x10800000000#41, 0x1FF00000000#41, false⟩,
  ⟨"WR.HEIGHT", 0x10C00000000#41, 0x1FF00000000#41, false⟩,
  ⟨"WR.DIN", 0x11000000000#41, 0x1FF00000000#41, false⟩,
  ⟨"RD.STATUS", 0x00400000000#41, 0x1FF00000000#41, false⟩,
  ⟨"RD.WIDTH", 0x00800000000#41, 0x1FF00000000#41, false⟩,
  ⟨"RD.HEIGHT", 0x00C00000000#41, 0x1FF00000000#41, false⟩,
  ⟨"RD.DOUT", 0x01400000000#41, 0x1FF00000000#41, false⟩,
  ⟨"RD.IN_COUNT", 0x01800000000#41, 0x1FF00000000#41, false⟩,
  ⟨"RD.OUT_LEVEL", 0x01C00000000#41, 0x1FF00000000#41, false⟩,
  ⟨"RD.FILE_LEN", 0x02000000000#41, 0x1FF00000000#41, false⟩,
  ⟨"RAZWI", 0x00000000000#41, 0x00000000000#41, true⟩]

/-- The rows of the first decoding step of R91. -/
def plainRows : List Row := opcodeTable.filter (fun r => !r.fallback)

/-- The rows of its second step. -/
def fallbackRows : List Row := opcodeTable.filter (fun r => r.fallback)

/-- Decoding as 30_encoding.md R91 words it: a plain row that matches, else the first fallback row that matches. -/
def tableLookup (d : Descriptor) : Option Row :=
  match plainRows.find? (·.hits d) with
  | some r => some r
  | none => fallbackRows.find? (·.hits d)

end Sys2Proof
end

