-- ==== Sys2Proof/Config.lean ====
section
/-! DEFINITION. The three parameters of the block (00_scope.md R6): OUT_CAP and MAX_RAW as data, and the open
DEFLATE_IMPL as a choice between STORED_REF and the chip's own engine, whose bytes are a free value. -/

namespace Sys2Proof

/-- Which DEFLATE_IMPL the block contains (00_scope.md R6; log entries 4 and 5). -/
inductive Engine where
  /-- The chip's own engine: the open parameter. Any admissible function may stand here. -/
  | chip
  /-- The reference instance of 42_deflate_engine.md R211. -/
  | storedRef
  deriving DecidableEq, Repr

/-- The parameters of one block, fixed for its life (00_scope.md R6). -/
structure Config where
  /-- OUT_CAP, the capacity of the output queue in bytes. -/
  outCap : Nat
  /-- MAX_RAW, the capacity of the raw stream in bytes. -/
  maxRaw : Nat
  /-- DEFLATE_IMPL. -/
  engine : Engine
  deriving DecidableEq, Repr

/-- The ranges that 00_scope.md R6 gives the two capacities. -/
def Config.ok (c : Config) : Bool :=
  decide (c.outCap ≤ 2 ^ 32 - 1) && decide (5 ≤ c.maxRaw) && decide (c.maxRaw ≤ 2 ^ 32 - 1)

/-- FREE VALUE (log entry 4): the bytes that the chip's own compressor proposes for a raw stream. It has no body, so
nothing can be proved of it; `Machine.deflateImpl` keeps it admissible (42_deflate_engine.md R209, R210). -/
opaque Config.deflateBytes : List Byte → List Byte

/-- The configuration of `State.reset`. DESIGN CHOICE (log entry 3, unsafe): the capacities are the defaults that
00_scope.md R6 offers; the engine stays open. -/
def Config.offered : Config := ⟨2 ^ 32 - 1, 2 ^ 32 - 1, .chip⟩

/-- The configuration that 95_test_vectors.md uses unless a vector says otherwise. -/
def Config.reference : Config := ⟨2 ^ 32 - 1, 2 ^ 32 - 1, .storedRef⟩

end Sys2Proof
end

