-- ==== Sys2Proof/Machine/State.lean ====
section
/-! DEFINITION. The state of the block (10_state.md R41), the host's side of the bus, the reset state, and the reasons
for which a step may stop. -/

namespace Sys2Proof.Machine

/-- The phase (10_state.md R22). -/
inductive Phase where
  | idle
  | accept
  | done
  | error
  deriving DecidableEq, Repr

/-- The error causes (10_state.md R33). -/
inductive ErrorCode where
  | illegalCmd
  | sequence
  | badDim
  | sizeMismatch
  | outOverflow
  deriving DecidableEq, Repr

/-- The block's state record, field for field (10_state.md R41). -/
structure Block where
  /-- The phase (R22). -/
  phase : Phase
  /-- The error code, read in STATUS[11:8] (R33). -/
  errcode : BitVec 4
  /-- The WIDTH register (R26). -/
  width : Word
  /-- The HEIGHT register (R27). -/
  height : Word
  /-- The width latched by START (R34). -/
  wl : Word
  /-- The height latched by START (R34). -/
  hl : Word
  /-- The number of bytes accepted since START (R30). -/
  inCount : Nat
  /-- The raw stream: all that the null filter passed to the deflate engine since START (R35). -/
  raw : List Byte
  /-- The output queue, head first (R38). -/
  outq : List Byte
  /-- The finished file's length (R32). -/
  fileLen : Nat
  deriving DecidableEq, Repr

/-- Every field at its reset value (10_state.md R43). -/
def Block.reset : Block where
  phase := .idle
  errcode := 0#4
  width := 0x00000000#32
  height := 0x00000000#32
  wl := 0#32
  hl := 0#32
  inCount := 0
  raw := []
  outq := []
  fileLen := 0

/-- What the outside world can do to the block. -/
inductive HostEvent where
  /-- One register access (30_encoding.md R90). -/
  | access (d : Descriptor)
  /-- The platform asserts reset, between two accesses (70_reset_and_hazards.md R341). -/
  | reset
  /-- A bus transfer of `bits` bits that is no 32-bit access (20_memory.md R67). -/
  | otherWidth (bits : Nat)
  deriving DecidableEq, Repr

/-- The machine: the block's record beside what the step needs of its surroundings. `config`, `pending` and `rdata`
are the model's own fields (log entries 1, 3 and 8). -/
structure State where
  /-- The parameters of this block (00_scope.md R6). No step changes them. -/
  config : Config
  /-- The block's record. -/
  block : Block
  /-- The host's events that are not performed yet, oldest first (20_memory.md R72). -/
  pending : List HostEvent
  /-- The read data of the last access: none after a write (40_host_commands.md R120). -/
  rdata : Option Word
  deriving DecidableEq, Repr

/-- The faults of a step: there is none. An error of the block is a state, the ERROR phase, and the step is total
(40_host_commands.md R120; 60_exceptions.md R300). -/
inductive Fault where
  deriving DecidableEq, Repr

/-- The reasons for which a step has no meaning. -/
inductive Refusal where
  /-- An instruction without a meaning in this model; raised by `exec` alone, by mnemonic. Safe. No arm raises it. -/
  | notModelled (mnemonic : String)
  /-- A bus transfer that is no 32-bit access: "A model refuses such an access and gives it no meaning"
  (20_memory.md R67). Raised by `step`, never by an instruction. Safe (log entry 7). -/
  | accessWidth (bits : Nat)
  deriving DecidableEq, Repr

/-- The machine right after reset, for a block of the given parameters: the block's record as 10_state.md R43 says, and
no host event yet (70_reset_and_hazards.md R342). -/
def State.resetWith (c : Config) : State where
  config := c
  block := Block.reset
  pending := []
  rdata := none

/-- The machine right after reset, with the capacities that 00_scope.md R6 offers (log entry 3). -/
def State.reset : State := State.resetWith Config.offered

end Sys2Proof.Machine
end

