-- ==== Sys2Proof/Machine/Ops.lean ====
section
/-! DEFINITION. The shared operations: entering the ERROR phase, ending an access, popping the output queue, the reset
event, and the byte orders of the file. -/

namespace Sys2Proof.Machine

/-! ## Byte order -/

/-- `be32`: four bytes, most significant first (44_chunk_framer.md R270). -/
def be32 (v : Word) : List Byte :=
  [v.extractLsb' 24 8, v.extractLsb' 16 8, v.extractLsb' 8 8, v.extractLsb' 0 8]

/-- `le16`: two bytes, least significant first (42_deflate_engine.md R200). -/
def le16 (v : BitVec 16) : List Byte := [v.extractLsb' 0 8, v.extractLsb' 8 8]

/-! ## Error entry -/

/-- The code of an error cause (10_state.md R33). -/
def ErrorCode.code : ErrorCode → BitVec 4
  | .illegalCmd => 1#4
  | .sequence => 2#4
  | .badDim => 3#4
  | .sizeMismatch => 4#4
  | .outOverflow => 5#4

/-- `raise Error(code)`: the code is recorded, the output is discarded, the phase is ERROR, and every other field keeps
its value (60_exceptions.md R300). -/
def Block.raise (e : ErrorCode) (b : Block) : Block :=
  { b with errcode := e.code, outq := [], fileLen := 0, phase := .error }

/-- Leaving ERROR, or any other phase, by CMD.ABORT: all is cleared but WIDTH and HEIGHT (40_host_commands.md R124;
60_exceptions.md R309). -/
def Block.abort (b : Block) : Block :=
  { b with phase := .idle, errcode := 0#4, wl := 0#32, hl := 0#32, inCount := 0, raw := [], outq := [], fileLen := 0 }

/-! ## The output queue -/

/-- One DOUT read: in DONE with a byte left, VALID with the head, which leaves the queue; else 0 and no change
(10_state.md R29). -/
def Block.readDout (b : Block) : Word × Block :=
  match b.phase, b.outq with
  | .done, x :: rest => (0x100#32 ||| x.setWidth 32, { b with outq := rest })
  | _, _ => (0x00000000#32, b)

/-! ## The end of an access (40_host_commands.md R120) -/

/-- A read ends: its data is given to the host. -/
def State.endRead (s : State) (v : Word) (b : Block) : State :=
  { s with block := b, rdata := some v }

/-- A write ends: it gives no read data. -/
def State.endWrite (s : State) (b : Block) : State :=
  { s with block := b, rdata := none }

/-! ## The reset event -/

/-- The platform asserts reset: every field of the block's record takes its reset value (70_reset_and_hazards.md R340).
The events the host has yet to perform stay (log entry 6). -/
def State.applyReset (s : State) : State :=
  { s with block := Block.reset, rdata := none }

end Sys2Proof.Machine
end

