-- ==== Sys2Proof/Machine/Crc32.lean ====
section
/-! DEFINITION. The CRC-32 unit crc32_eth (43_crc32.md). -/

namespace Sys2Proof.Machine

/-- One bit of the byte update: a right shift, with the reversed polynomial where a 1 falls out (43_crc32.md R251). -/
def crcBit (c : Word) : Word := if c.getLsbD 0 then (c >>> 1) ^^^ 0xEDB88320#32 else c >>> 1

/-- `CRC_UPDATE(c, b)` (43_crc32.md R251). -/
def crcUpdate (c : Word) (b : Byte) : Word := Nat.repeat crcBit 8 (c ^^^ b.setWidth 32)

/-- The unit's register after the bytes of `s`, from its initial value (43_crc32.md R250, R252). -/
def crcRegister (s : List Byte) : Word := s.foldl crcUpdate 0xFFFFFFFF#32

/-- `CRC32(s)` (43_crc32.md R252). -/
def crc32 (s : List Byte) : Word := crcRegister s ^^^ 0xFFFFFFFF#32

/-- `T[i]` of the table-driven form (43_crc32.md R253). -/
def crcTable (i : Byte) : Word := crcUpdate (i.setWidth 32) 0x00#8

/-- The byte update by the table (43_crc32.md R253). The machine uses `crcUpdate`. -/
def crcUpdateByTable (c : Word) (b : Byte) : Word :=
  (c >>> 8) ^^^ crcTable ((c ^^^ b.setWidth 32).setWidth 8)

end Sys2Proof.Machine
end

