-- ==== Sys2Proof/Machine/Inflate.lean ====
section
/-! DEFINITION. INFLATE, the decoding function by which 42_deflate_engine.md says what an admissible DEFLATE_IMPL is
(R198 to R209). The block contains no decoder (R207): no access runs these functions but through the admissibility of the
chip's engine. A decoder's failure is `none`. -/

namespace Sys2Proof.Machine

/-! ## Bits (R199) -/

/-- The bits of a byte, bit 0 first. -/
def byteBits (b : Byte) : List Bool :=
  [b.getLsbD 0, b.getLsbD 1, b.getLsbD 2, b.getLsbD 3, b.getLsbD 4, b.getLsbD 5, b.getLsbD 6, b.getLsbD 7]

/-- The bits of D in the order they are read. -/
def bitStream (D : List Byte) : List Bool := D.flatMap byteBits

/-- `bits(n)`: the first bit read is bit 0 of the value; reading past the end fails (R199). -/
def takeBits : Nat → List Bool → Option (Nat × List Bool)
  | 0, r => some (0, r)
  | _ + 1, [] => none
  | n + 1, x :: r =>
    match takeBits n r with
    | some (v, r') => some (2 * v + x.toNat, r')
    | none => none

/-! ## Huffman codes (R202) -/

/-- `bl_count[L]`. -/
def blCount (lens : List Nat) (L : Nat) : Nat := if L = 0 then 0 else lens.count L

/-- `next_code[L]` before any symbol is given its code. -/
def firstCode (lens : List Nat) : Nat → Nat
  | 0 => 0
  | L + 1 => 2 * (firstCode lens L + blCount lens L)

/-- `code_of[sym]`: the first code of its length, plus the number of earlier symbols of that length.
DEDUCED from the loop of R202 (log entry 12). -/
def codeOf (lens : List Nat) (sym : Nat) : Nat :=
  firstCode lens (lens.getD sym 0) + (lens.take sym).count (lens.getD sym 0)

/-- The symbol, counted from `sym`, that is the `k`-th of code length `L`. -/
def nthOfLength (L : Nat) : List Nat → Nat → Nat → Option Nat
  | [], _, _ => none
  | l :: ls, k, sym =>
    if l = L then (if k = 0 then some sym else nthOfLength L ls (k - 1) (sym + 1))
    else nthOfLength L ls k (sym + 1)

/-- The symbol whose code is the `L`-bit value `c`: since R202 numbers the symbols of one length in order, it is the
`(c − next_code[L])`-th of them. -/
def symbolOf (lens : List Nat) (L c : Nat) : Option Nat :=
  if L = 0 ∨ c < firstCode lens L then none else nthOfLength L lens (c - firstCode lens L) 0

/-- Reading one symbol, most significant code bit first (R199); `n` more bits may be read, `L` bits of value `c` were.
A pattern that no symbol has fails. -/
def huffDecodeFrom (lens : List Nat) : Nat → Nat → Nat → List Bool → Option (Nat × List Bool)
  | 0, _, _, _ => none
  | _ + 1, _, _, [] => none
  | n + 1, L, c, x :: r =>
    match symbolOf lens (L + 1) (2 * c + x.toNat) with
    | some s => some (s, r)
    | none => huffDecodeFrom lens n (L + 1) (2 * c + x.toNat) r

/-- `decode(code)`: a code has at most 15 bits (R202). -/
def huffDecode (lens : List Nat) (r : List Bool) : Option (Nat × List Bool) := huffDecodeFrom lens 15 0 0 r

/-- `2^15 · K`, with K the sum of R202. -/
def kraftSum (lens : List Nat) : Nat := (lens.map (fun l => if l = 0 then 0 else 2 ^ (15 - l))).sum

/-- R202 (a): the code is complete. -/
def codeComplete (lens : List Nat) : Bool := lens.all (· ≤ 15) && kraftSum lens == 2 ^ 15

/-- R202 (b): exactly one symbol has a code, of length 1. -/
def codeSingle (lens : List Nat) : Bool := lens.filter (· != 0) == [1]

/-- R202 (c): no symbol has a code. -/
def codeEmpty (lens : List Nat) : Bool := lens.all (· == 0)

/-- The literal/length code lengths of a fixed block (R201). -/
def fixedLitLens : List Nat :=
  List.replicate 144 8 ++ List.replicate 112 9 ++ List.replicate 24 7 ++ List.replicate 8 8

/-- The distance code lengths of a fixed block (R201). -/
def fixedDistLens : List Nat := List.replicate 32 5

/-! ## Lengths and distances (R203, R204) -/

/-- `LBASE[s]`, from s = 257. -/
def lengthBase : List Nat :=
  [3, 4, 5, 6, 7, 8, 9, 10] ++ [11, 13, 15, 17] ++ [19, 23, 27, 31] ++ [35, 43, 51, 59] ++ [67, 83, 99, 115] ++
  [131, 163, 195, 227] ++ [258]

/-- `LEXT[s]`, from s = 257. -/
def lengthExtra : List Nat :=
  [0, 0, 0, 0, 0, 0, 0, 0] ++ [1, 1, 1, 1] ++ [2, 2, 2, 2] ++ [3, 3, 3, 3] ++ [4, 4, 4, 4] ++ [5, 5, 5, 5] ++ [0]

/-- `DBASE[d]`. -/
def distBase : List Nat :=
  [1, 2, 3, 4] ++ [5, 7, 9, 13] ++ [17, 25, 33, 49] ++ [65, 97, 129, 193] ++ [257, 385, 513, 769] ++
  [1025, 1537, 2049, 3073] ++ [4097, 6145, 8193, 12289] ++ [16385, 24577]

/-- `DEXT[d]`. -/
def distExtra : List Nat :=
  [0, 0, 0, 0] ++ [1, 1, 2, 2] ++ [3, 3, 4, 4] ++ [5, 5, 6, 6] ++ [7, 7, 8, 8] ++ [9, 9, 10, 10] ++
  [11, 11, 12, 12] ++ [13, 13]

/-- The match length of literal/length symbol `s`, 257 to 285; 258 coded by symbol 284 fails (R203, R207). -/
def readLength (s : Nat) (r : List Bool) : Option (Nat × List Bool) :=
  match takeBits (lengthExtra.getD (s - 257) 0) r with
  | none => none
  | some (e, r') =>
    let n := lengthBase.getD (s - 257) 0 + e
    if s = 284 ∧ n = 258 then none else some (n, r')

/-- The match distance: a distance symbol of at most 29, then its extra bits (R204). -/
def readDistance (dl : List Nat) (r : List Bool) : Option (Nat × List Bool) :=
  match huffDecode dl r with
  | none => none
  | some (d, r') =>
    if 30 ≤ d then none
    else match takeBits (distExtra.getD d 0) r' with
      | none => none
      | some (e, r'') => some (distBase.getD d 0 + e, r'')

/-! ## Blocks. The output is kept newest byte first. -/

/-- `n` times, the byte `dist` back is appended, so that a distance below `n` repeats (R207). -/
def copyMatch (dist : Nat) : Nat → List Byte → List Byte
  | 0, out => out
  | n + 1, out => copyMatch dist n (out.getD (dist - 1) 0 :: out)

/-- `HUFFBLOCK(LL, DL)` (R207). Every symbol takes a bit, so `fuel` above the number of bits left never ends it. -/
def huffBlock (ll dl : List Nat) : Nat → List Bool → List Byte → Option (List Byte × List Bool)
  | 0, _, _ => none
  | fuel + 1, r, out =>
    match huffDecode ll r with
    | none => none
    | some (s, r) =>
      if s < 256 then huffBlock ll dl fuel r (BitVec.ofNat 8 s :: out)
      else if s = 256 then some (out, r)
      else if s ≤ 285 then
        match readLength s r with
        | none => none
        | some (n, r) =>
          match readDistance dl r with
          | none => none
          | some (dist, r) =>
            if out.length < dist ∨ 32768 < dist then none
            else huffBlock ll dl fuel r (copyMatch dist n out)
      else none

/-- `n` whole bytes are copied to the output (R200, step 4). -/
def copyBytes : Nat → List Bool → List Byte → Option (List Byte × List Bool)
  | 0, r, out => some (out, r)
  | n + 1, r, out =>
    match takeBits 8 r with
    | none => none
    | some (v, r) => copyBytes n r (BitVec.ofNat 8 v :: out)

/-- A stored block, after its header (R200). The number of bits left modulo 8 is what remains of the current byte. -/
def storedBlock (r : List Bool) (out : List Byte) : Option (List Byte × List Bool) :=
  match takeBits 16 (r.drop (r.length % 8)) with
  | none => none
  | some (len, r) =>
    match takeBits 16 r with
    | none => none
    | some (nlen, r) => if nlen = len ^^^ 0xFFFF then copyBytes len r out else none

/-- The order of the code-length-code lengths (R205). -/
def codeLengthOrder : List Nat := [16, 17, 18, 0, 8, 7, 9, 6, 10, 5, 11, 4, 12, 3, 13, 2, 14, 1, 15]

/-- The code-length-code lengths, 3 bits each, put at the symbols of `order` in turn (R205, step 4). -/
def readCodeLengthCode : List Nat → List Nat → List Bool → Option (List Nat × List Bool)
  | [], lens, r => some (lens, r)
  | sym :: order, lens, r =>
    match takeBits 3 r with
    | none => none
    | some (v, r) => readCodeLengthCode order (lens.set sym v) r

/-- The sequence of `total` code lengths (R206), newest first in `acc`. Every symbol adds a length, so `fuel` of `total`
never ends it early. -/
def readLengths (cl : List Nat) (total : Nat) : Nat → List Bool → List Nat → Option (List Nat × List Bool)
  | 0, r, acc => if acc.length = total then some (acc.reverse, r) else none
  | fuel + 1, r, acc =>
    if acc.length = total then some (acc.reverse, r)
    else if total < acc.length then none
    else
      match huffDecode cl r with
      | none => none
      | some (s, r) =>
        if s ≤ 15 then readLengths cl total fuel r (s :: acc)
        else if s = 16 then
          match acc, takeBits 2 r with
          | prev :: _, some (e, r) => readLengths cl total fuel r (List.replicate (3 + e) prev ++ acc)
          | _, _ => none
        else if s = 17 then
          match takeBits 3 r with
          | some (e, r) => readLengths cl total fuel r (List.replicate (3 + e) 0 ++ acc)
          | none => none
        else
          match takeBits 7 r with
          | some (e, r) => readLengths cl total fuel r (List.replicate (11 + e) 0 ++ acc)
          | none => none

/-- A dynamic block's header: the literal/length and the distance code lengths (R205, R206). -/
def dynamicHeader (r : List Bool) : Option ((List Nat × List Nat) × List Bool) :=
  match takeBits 5 r with
  | none => none
  | some (hl, r) =>
    match takeBits 5 r with
    | none => none
    | some (hd, r) =>
      match takeBits 4 r with
      | none => none
      | some (hc, r) =>
        let hlit := hl + 257
        let hdist := hd + 1
        if 286 < hlit ∨ 30 < hdist then none
        else
          match readCodeLengthCode (codeLengthOrder.take (hc + 4)) (List.replicate 19 0) r with
          | none => none
          | some (cl, r) =>
            if !codeComplete cl then none
            else
              match readLengths cl (hlit + hdist) (hlit + hdist) r [] with
              | none => none
              | some (lens, r) =>
                let ll := lens.take hlit
                let dl := lens.drop hlit
                if (codeComplete ll || codeSingle ll) && (codeComplete dl || codeSingle dl || codeEmpty dl) &&
                    ll.getD 256 0 != 0 then some ((ll, dl), r)
                else none

/-- The blocks of D, to the one with BFINAL = 1 (R198, R207). Every block takes a bit, so `fuel` of the number of bits
never ends it early. -/
def inflateBlocks : Nat → List Bool → List Byte → Option (List Byte × List Bool)
  | 0, _, _ => none
  | fuel + 1, r, out =>
    match takeBits 1 r with
    | none => none
    | some (bfinal, r) =>
      match takeBits 2 r with
      | none => none
      | some (btype, r) =>
        match
          (if btype = 0 then storedBlock r out
           else if btype = 1 then huffBlock fixedLitLens fixedDistLens (r.length + 1) r out
           else if btype = 2 then
             match dynamicHeader r with
             | some ((ll, dl), r) => huffBlock ll dl (r.length + 1) r out
             | none => none
           else none) with
        | none => none
        | some (out, r) => if bfinal = 1 then some (out, r) else inflateBlocks fuel r out

/-- `INFLATE(D)`: the output and the bit position p, or FAIL (R207). -/
def inflate (D : List Byte) : Option (List Byte × Nat) :=
  match inflateBlocks (8 * D.length) (bitStream D) [] with
  | some (out, r) => some (out.reverse, 8 * D.length - r.length)
  | none => none

/-- `INFLATE_OK(D, R)` (R208). -/
def inflateOk (D R : List Byte) : Bool :=
  match inflate D with
  | some (out, p) => out == R && (p + 7) / 8 == D.length && ((bitStream D).drop p).all (!·)
  | none => false

end Sys2Proof.Machine
end

