-- ==== Sys2Proof/Machine/Deflate.lean ====
section
/-! DEFINITION. The deflate engine: the zlib container, Adler-32, STORED_REF, and the block's DEFLATE_IMPL
(42_deflate_engine.md). -/

namespace Sys2Proof.Machine

/-! ## Adler-32 (R194) -/

/-- One byte of Adler-32, on the sums (s1, s2). -/
def adlerStep (s : Nat × Nat) (b : Byte) : Nat × Nat :=
  ((s.1 + b.toNat) % 65521, (s.2 + (s.1 + b.toNat) % 65521) % 65521)

/-- The sums (s1, s2) after the bytes of R. -/
def adlerSums (R : List Byte) : Nat × Nat := R.foldl adlerStep (1, 0)

/-- `ADLER32(R)`. -/
def adler32 (R : List Byte) : Word := BitVec.ofNat 32 ((adlerSums R).2 * 65536 + (adlerSums R).1)

/-! ## The reference engine (R211) -/

/-- The number of stored blocks for `n` bytes, `max(1, ceil(n / 65535))`. -/
def storedCount (n : Nat) : Nat := max 1 ((n + 65534) / 65535)

/-- `k` stored blocks of at most 65535 bytes, the last with BFINAL. -/
def storedBlocks : Nat → List Byte → List Byte
  | 0, _ => []
  | k + 1, R =>
    let len : BitVec 16 := BitVec.ofNat 16 (R.take 65535).length
    (if k = 0 then 0x01#8 else 0x00#8) ::
      (le16 len ++ le16 (len ^^^ 0xFFFF#16) ++ R.take 65535 ++ storedBlocks k (R.drop 65535))

/-- `STORED_REF(R)`. -/
def storedRef (R : List Byte) : List Byte := storedBlocks (storedCount R.length) R

/-! ## DEFLATE_IMPL (R197, R209) -/

/-- The compressed bytes of the block: STORED_REF, or the chip's own. The chip's own are a free value, of which R209
asks only that they inflate exactly; where the free value does not, STORED_REF's bytes stand for it, so that what is
left open is every admissible engine and no other (log entry 4). -/
def deflateImpl (c : Config) (R : List Byte) : List Byte :=
  match c.engine with
  | .storedRef => storedRef R
  | .chip =>
    if decide (c.maxRaw < R.length) || inflateOk (Config.deflateBytes R) R then Config.deflateBytes R else storedRef R

/-! ## The zlib container (R190 to R195) -/

/-- CMF: deflate, a window of 32768 bytes (R191). -/
def zlibCmf : Byte := 0x78#8

/-- FLG: FCHECK 26, no dictionary, FLEVEL 3 (R192). -/
def zlibFlg : Byte := 0xDA#8

/-- The zlib stream of body D over raw stream R (R190). -/
def zlibWrap (D R : List Byte) : List Byte := [zlibCmf, zlibFlg] ++ D ++ be32 (adler32 R)

/-- `ZLIB(R)` (R190). -/
def zlib (c : Config) (R : List Byte) : List Byte := zlibWrap (deflateImpl c R) R

end Sys2Proof.Machine
end

