-- ==== Sys2Proof/Machine/NullFilter.lean ====
section
/-! DEFINITION. The null filter: the raw scanline stream, at once and one byte at a time (41_null_filter.md). -/

namespace Sys2Proof.Machine

/-- `ROWBYTES(W)` (41_null_filter.md R170). -/
abbrev rowBytes (w : Nat) : Nat := 4 * w

/-- `RAW(W, H, B)`: each row of the buffer behind the filter-type byte 0x00, in order (41_null_filter.md R172, R173). -/
def rawStream (w : Nat) : Nat → List Byte → List Byte
  | 0, _ => []
  | h + 1, buf => 0x00#8 :: (buf.take (rowBytes w) ++ rawStream w h (buf.drop (rowBytes w)))

/-- `FilterByte(raw, i, W, b)` (41_null_filter.md R174). -/
def filterByte (raw : List Byte) (i w : Nat) (b : Byte) : List Byte :=
  if i % rowBytes w = 0 then raw ++ [0x00#8, b] else raw ++ [b]

/-- The filter run over bytes whose first has buffer index `i`. -/
def filterFrom (w : Nat) : Nat → List Byte → List Byte → List Byte
  | _, raw, [] => raw
  | i, raw, b :: bs => filterFrom w (i + 1) (filterByte raw i w b) bs

/-- `RAWPREFIX(W, b_0 … b_{n−1})` (41_null_filter.md R177). -/
def rawPrefix (w : Nat) (bs : List Byte) : List Byte := filterFrom w 0 [] bs

end Sys2Proof.Machine
end

