-- ==== Sys2Proof/Machine/Framer.lean ====
section
/-! DEFINITION. The chunk framer and the assembly of the file (44_chunk_framer.md). -/

namespace Sys2Proof.Machine

/-- The PNG signature (R274). -/
def pngSignature : List Byte := [0x89#8, 0x50#8, 0x4E#8, 0x47#8, 0x0D#8, 0x0A#8, 0x1A#8, 0x0A#8]

/-- The tag "IHDR" (R271). -/
def tagIhdr : List Byte := [0x49#8, 0x48#8, 0x44#8, 0x52#8]

/-- The tag "IDAT" (R271). -/
def tagIdat : List Byte := [0x49#8, 0x44#8, 0x41#8, 0x54#8]

/-- The tag "IEND" (R271). -/
def tagIend : List Byte := [0x49#8, 0x45#8, 0x4E#8, 0x44#8]

/-- `CHUNK(t, p)` (R272); the CRC covers the tag and the payload (43_crc32.md R254). DESIGN CHOICE (log entry 14): R272
defines it for |p| ≤ 2^31 − 1; beyond, the length field here is the length modulo 2^32. No such file is ever released
(60_exceptions.md R305). -/
def chunk (tag payload : List Byte) : List Byte :=
  be32 (BitVec.ofNat 32 payload.length) ++ tag ++ payload ++ be32 (crc32 (tag ++ payload))

/-- `IHDR_PAYLOAD(W, H)` (R275). -/
def ihdrPayload (w h : Word) : List Byte := be32 w ++ be32 h ++ [0x08#8, 0x06#8, 0x00#8, 0x00#8, 0x00#8]

/-- `FRAME(W, H, Z)` (R279). -/
def frame (w h : Word) (Z : List Byte) : List Byte :=
  pngSignature ++ chunk tagIhdr (ihdrPayload w h) ++ chunk tagIdat Z ++ chunk tagIend []

/-- `PNG_ENCODE(W, H, B)` (R279). -/
def pngEncode (c : Config) (w h : Word) (buf : List Byte) : List Byte :=
  frame w h (zlib c (rawStream w.toNat h.toNat buf))

end Sys2Proof.Machine
end

