-- ==== Sys2Proof/Machine/Operands.lean ====
section
/-! DEFINITION. What an access takes from its DATA field and from the registers, and the checks on those values. -/

namespace Sys2Proof.Machine

/-- The byte of a DIN write, `DATA[7:0]` (30_encoding.md R95). -/
def dinByte (data : Word) : Byte := data.extractLsb' 0 8

/-- The command field OPCODE of a CMD write (30_encoding.md R92). -/
def cmdOpcode (data : Word) : BitVec 8 := data.extractLsb' 0 8

/-- The command field RSVD of a CMD write, which must be 0 (30_encoding.md R92). -/
def cmdReserved (data : Word) : BitVec 24 := data.extractLsb' 8 24

/-- The largest width, height and chunk length of a PNG file (40_host_commands.md R136, 44_chunk_framer.md R273). -/
abbrev pngLimit : Nat := 2 ^ 31 - 1

/-- `DIMS_OK(w, h)`, on unbounded naturals (40_host_commands.md R136). -/
def dimsOk (maxRaw w h : Nat) : Bool :=
  decide (1 ≤ w) && decide (w ≤ pngLimit) && decide (1 ≤ h) && decide (h ≤ pngLimit) &&
  decide (h * (4 * w + 1) ≤ maxRaw)

/-- The length of the pixel buffer of the encode in progress, `4·wl·hl`, computed exactly (40_host_commands.md R138). -/
abbrev Block.bufferBytes (b : Block) : Nat := 4 * b.wl.toNat * b.hl.toNat

end Sys2Proof.Machine
end

