-- ==== Sys2Proof/Machine/Commands.lean ====
section
/-! DEFINITION. The meanings of the CMD writes (40_host_commands.md R121 to R125). -/

namespace Sys2Proof.Machine

/-- CMD.NOP: no effect, in every phase (R121). -/
def execCmdNop (s : State) : Host.Outcome State Fault Refusal := .next (s.endWrite s.block)

/-- START on the block's record (R122). -/
def Block.start (c : Config) (b : Block) : Block :=
  match b.phase with
  | .error => b
  | .accept => b.raise .sequence
  | .idle | .done =>
    if dimsOk c.maxRaw b.width.toNat b.height.toNat then
      { b with wl := b.width, hl := b.height, inCount := 0, raw := [], outq := [], fileLen := 0, errcode := 0#4,
               phase := .accept }
    else b.raise .badDim

/-- CMD.START: begin an encode with the current WIDTH and HEIGHT (R122). -/
def execCmdStart (s : State) : Host.Outcome State Fault Refusal := .next (s.endWrite (s.block.start s.config))

/-- The file that FINISH would release for the bytes accepted so far: `FRAME(st.wl, st.hl, ZLIB(st.raw))` (R123). -/
def Block.file (c : Config) (b : Block) : List Byte := frame b.wl b.hl (zlib c b.raw)

/-- The check that raises OUT_OVERFLOW (60_exceptions.md R305). -/
def Block.overflows (c : Config) (b : Block) : Bool :=
  decide (pngLimit < (zlib c b.raw).length) || decide (c.outCap < (b.file c).length)

/-- FINISH on the block's record (R123). -/
def Block.finish (c : Config) (b : Block) : Block :=
  match b.phase with
  | .error => b
  | .idle | .done => b.raise .sequence
  | .accept =>
    if b.inCount ≠ b.bufferBytes then b.raise .sizeMismatch
    else if b.overflows c then b.raise .outOverflow
    else { b with outq := b.file c, fileLen := (b.file c).length, phase := .done }

/-- CMD.FINISH: compress, frame and release the file (R123). -/
def execCmdFinish (s : State) : Host.Outcome State Fault Refusal := .next (s.endWrite (s.block.finish s.config))

/-- CMD.ABORT: return to IDLE from any phase (R124). -/
def execCmdAbort (s : State) : Host.Outcome State Fault Refusal := .next (s.endWrite s.block.abort)

/-- An illegal CMD word on the block's record (R125, 60_exceptions.md R308). -/
def Block.illegalCommand (b : Block) : Block :=
  match b.phase with
  | .error => b
  | .idle | .accept | .done => b.raise .illegalCmd

/-- CMD.ILLEGAL: any CMD write but the four commands (R125). The word itself is not recorded (60_exceptions.md R301). -/
def execCmdIllegal (_data : Word) (s : State) : Host.Outcome State Fault Refusal :=
  .next (s.endWrite s.block.illegalCommand)

end Sys2Proof.Machine
end

