-- ==== Sys2Proof/Machine/Razwi.lean ====
section
/-! DEFINITION. The meaning of RAZWI, the accesses that name no register for their direction (30_encoding.md R98). -/

namespace Sys2Proof.Machine

/-- RAZWI: a read gives 0, a write is ignored, no state changes, no error is raised (30_encoding.md R98). -/
def execRazwi (write : Bool) (_offset : Offset) (_data : Word) (s : State) : Host.Outcome State Fault Refusal :=
  .next (if write then s.endWrite s.block else s.endRead 0x00000000#32 s.block)

end Sys2Proof.Machine
end

