-- ==== Sys2Proof/Machine/Flags.lean ====
section
/-! DEFINITION. The STATUS register's fields, each computed from the block's record (10_state.md R25). -/

namespace Sys2Proof.Machine

/-- STATUS[1:0], the phase's encoding (10_state.md R22). -/
def Phase.code : Phase → BitVec 2
  | .idle => 0#2
  | .accept => 1#2
  | .done => 2#2
  | .error => 3#2

/-- STATUS[2], OUT_VALID. -/
def Block.outValid (b : Block) : Bool := decide (b.phase = .done) && decide (0 < b.outq.length)

/-- STATUS[3], ERR. -/
def Block.errFlag (b : Block) : Bool := decide (b.phase = .error)

/-- STATUS[4], IN_FULL. -/
def Block.inFull (b : Block) : Bool := decide (b.phase = .accept) && decide (b.inCount = b.bufferBytes)

/-- The value of STATUS (40_host_commands.md R129); the reserved bits are 0. -/
def Block.statusWord (b : Block) : Word :=
  (b.errcode.setWidth 32 <<< 8) ||| ((BitVec.ofBool b.inFull).setWidth 32 <<< 4) |||
  ((BitVec.ofBool b.errFlag).setWidth 32 <<< 3) ||| ((BitVec.ofBool b.outValid).setWidth 32 <<< 2) |||
  b.phase.code.setWidth 32

end Sys2Proof.Machine
end

