-- ==== Sys2Proof/Machine/RegReads.lean ====
section
/-! DEFINITION. The meanings of the register reads (40_host_commands.md R129 to R135). -/

namespace Sys2Proof.Machine

/-- RD.STATUS (R129). -/
def execRdStatus (s : State) : Host.Outcome State Fault Refusal := .next (s.endRead s.block.statusWord s.block)

/-- RD.WIDTH: the register, not the latched width (R130). -/
def execRdWidth (s : State) : Host.Outcome State Fault Refusal := .next (s.endRead s.block.width s.block)

/-- RD.HEIGHT: the register, not the latched height (R131). -/
def execRdHeight (s : State) : Host.Outcome State Fault Refusal := .next (s.endRead s.block.height s.block)

/-- RD.DOUT: read and pop one output byte (R132). -/
def execRdDout (s : State) : Host.Outcome State Fault Refusal :=
  .next (s.endRead s.block.readDout.1 s.block.readDout.2)

/-- RD.IN_COUNT (R133). -/
def execRdInCount (s : State) : Host.Outcome State Fault Refusal :=
  .next (s.endRead (BitVec.ofNat 32 s.block.inCount) s.block)

/-- RD.OUT_LEVEL (R134). -/
def execRdOutLevel (s : State) : Host.Outcome State Fault Refusal :=
  .next (s.endRead (BitVec.ofNat 32 s.block.outq.length) s.block)

/-- RD.FILE_LEN (R135). -/
def execRdFileLen (s : State) : Host.Outcome State Fault Refusal :=
  .next (s.endRead (BitVec.ofNat 32 s.block.fileLen) s.block)

end Sys2Proof.Machine
end

