-- ==== Sys2Proof/Machine/RegWrites.lean ====
section
/-! DEFINITION. The meanings of the register writes (40_host_commands.md R126 to R128). -/

namespace Sys2Proof.Machine

/-- WR.WIDTH: in every phase, the register takes DATA (R126). -/
def execWrWidth (data : Word) (s : State) : Host.Outcome State Fault Refusal :=
  .next (s.endWrite { s.block with width := data })

/-- WR.HEIGHT: in every phase, the register takes DATA (R127). -/
def execWrHeight (data : Word) (s : State) : Host.Outcome State Fault Refusal :=
  .next (s.endWrite { s.block with height := data })

/-- One pixel-buffer byte on the block's record (R128). -/
def Block.feed (x : Byte) (b : Block) : Block :=
  match b.phase with
  | .error => b
  | .idle | .done => b.raise .sequence
  | .accept =>
    if b.inCount = b.bufferBytes then b.raise .sizeMismatch
    else { b with raw := filterByte b.raw b.inCount b.wl.toNat x, inCount := b.inCount + 1 }

/-- WR.DIN: feed the byte DATA[7:0] (R128). -/
def execWrDin (data : Word) (s : State) : Host.Outcome State Fault Refusal :=
  .next (s.endWrite (s.block.feed (dinByte data)))

end Sys2Proof.Machine
end

