-- ==== Sys2Proof/Machine/Dispatch.lean ====
section
/-! DEFINITION. One arm for each instruction: the meaning it runs (40_host_commands.md R120). -/

namespace Sys2Proof.Machine

def exec (i : Instr) (s : State) : Host.Outcome State Fault Refusal :=
  match i with
  | .cmdNop => Sys2Proof.Machine.execCmdNop s
  | .cmdStart => Sys2Proof.Machine.execCmdStart s
  | .cmdFinish => Sys2Proof.Machine.execCmdFinish s
  | .cmdAbort => Sys2Proof.Machine.execCmdAbort s
  | .cmdIllegal data => Sys2Proof.Machine.execCmdIllegal data s
  | .wrWidth data => Sys2Proof.Machine.execWrWidth data s
  | .wrHeight data => Sys2Proof.Machine.execWrHeight data s
  | .wrDin data => Sys2Proof.Machine.execWrDin data s
  | .rdStatus _ => Sys2Proof.Machine.execRdStatus s
  | .rdWidth _ => Sys2Proof.Machine.execRdWidth s
  | .rdHeight _ => Sys2Proof.Machine.execRdHeight s
  | .rdDout _ => Sys2Proof.Machine.execRdDout s
  | .rdInCount _ => Sys2Proof.Machine.execRdInCount s
  | .rdOutLevel _ => Sys2Proof.Machine.execRdOutLevel s
  | .rdFileLen _ => Sys2Proof.Machine.execRdFileLen s
  | .razwi write offset data => Sys2Proof.Machine.execRazwi write offset data s

end Sys2Proof.Machine
end

