-- ==== Sys2Proof/Machine/Step.lean ====
section
/-! DEFINITION. One step: the host's oldest pending event is performed whole (20_memory.md R69). -/

namespace Sys2Proof.Machine

/-- One step. An access is decoded and run; reset is applied; a transfer of another width has no meaning
(20_memory.md R67). With no event pending nothing happens: the block has no step of its own (00_scope.md R10) and keeps
all its state between accesses (60_exceptions.md R317; log entry 2). -/
def step (s : State) : Host.Outcome State Fault Refusal :=
  match s.pending with
  | [] => .next s
  | .access d :: rest => exec (decode d) { s with pending := rest }
  | .reset :: rest => .next { s with pending := rest }.applyReset
  | .otherWidth bits :: _ => .refused (.accessWidth bits)

/-- The event of a number of opcode_table.json: the descriptor it is, or, for a number with a bit above bit 40, a
transfer that is no access. -/
def eventOfWord (nbits w : Nat) : HostEvent :=
  if w % 2 ^ nbits < 2 ^ 41 then .access (BitVec.ofNat 41 (w % 2 ^ nbits)) else .otherWidth nbits

/-- The state whose very next step performs the access of one row of opcode_table.json: it becomes the host's oldest
pending event (log entry 1). -/
def State.withFetchWord (s : State) (nbits w : Nat) : State :=
  { s with pending := eventOfWord nbits w :: s.pending }

end Sys2Proof.Machine
end

