-- ==== Sys2Proof/Safety.lean ====
section
/-! DEFINITION. The words that claims about the machine use: the invariants of 10_state.md R42, sessions of host events,
the host protocol of 70_reset_and_hazards.md R343, the loops of 42_deflate_engine.md R202, and a reader of PNG files for
44_chunk_framer.md R283. Nothing here is run by the machine. -/

namespace Sys2Proof.Machine

/-! ## Conditions and states of the rules -/

/-- `DIMS_OK(w, h)` in the words of 40_host_commands.md R136. -/
def DimsLegal (c : Config) (w h : Word) : Prop :=
  1 ≤ w.toNat ∧ w.toNat ≤ 2 ^ 31 - 1 ∧ 1 ≤ h.toNat ∧ h.toNat ≤ 2 ^ 31 - 1 ∧ h.toNat * (4 * w.toNat + 1) ≤ c.maxRaw

/-- IDLE or DONE, the phases in which START is legal (40_host_commands.md R122). -/
def Block.Resting (b : Block) : Prop := b.phase = .idle ∨ b.phase = .done

/-- The state after a CMD or DIN write that enters ERROR with this code, in the words of 60_exceptions.md R300. -/
def State.afterError (s : State) (code : BitVec 4) : State :=
  { s with block := { s.block with errcode := code, outq := [], fileLen := 0, phase := .error }, rdata := none }

/-! ## The invariants (10_state.md R41, R42) -/

/-- What R42 says of each phase. In ACCEPT and DONE `bs` are the accepted bytes: the raw stream is their filtered form,
which fixes them. -/
def Block.PhaseInv (c : Config) (b : Block) : Prop :=
  match b.phase with
  | .idle => b.outq = [] ∧ b.fileLen = 0 ∧ b.errcode = 0#4 ∧ b.inCount = 0 ∧ b.raw = []
  | .accept =>
    b.outq = [] ∧ b.fileLen = 0 ∧ b.errcode = 0#4 ∧ DimsLegal c b.wl b.hl ∧
    b.inCount ≤ 4 * b.wl.toNat * b.hl.toNat ∧
    ∃ bs : List Byte, bs.length = b.inCount ∧ b.raw = rawPrefix b.wl.toNat bs
  | .done =>
    b.errcode = 0#4 ∧ b.inCount = 4 * b.wl.toNat * b.hl.toNat ∧
    ∃ bs : List Byte, bs.length = b.inCount ∧ b.raw = rawPrefix b.wl.toNat bs ∧ b.fileLen = (pngEncode c b.wl b.hl bs).length ∧
      b.outq <:+ pngEncode c b.wl b.hl bs
  | .error => 1 ≤ b.errcode.toNat ∧ b.errcode.toNat ≤ 5 ∧ b.outq = [] ∧ b.fileLen = 0

/-- The bounds that the record of R41 puts on its fields. -/
def Block.Bounds (c : Config) (b : Block) : Prop :=
  b.inCount < 2 ^ 32 ∧ b.raw.length ≤ c.maxRaw ∧ b.outq.length ≤ c.outCap ∧ b.fileLen ≤ c.outCap

/-- The invariant of the machine: legal parameters, the bounds, and what R42 says of the phase. -/
def State.Inv (s : State) : Prop :=
  s.config.ok = true ∧ s.block.Bounds s.config ∧ s.block.PhaseInv s.config

/-! ## Sessions -/

/-- The host issues the events one after the other, each performed before the next (20_memory.md R69). It answers the
read data, in order, and the state at the end; none if a step stops. -/
def session : List HostEvent → State → Option (List Word × State)
  | [], s => some ([], s)
  | e :: es, s =>
    match step { s with pending := [e] } with
    | .next t =>
      match session es t with
      | some (vs, u) => some (t.rdata.toList ++ vs, u)
      | none => none
    | .fault _ => none
    | .refused _ => none

/-- The access of an instruction. -/
def HostEvent.of (i : Instr) : HostEvent := .access (encode i)

/-- What DOUT gives for a byte of the file: VALID and the byte (10_state.md R29). -/
def doutWord (x : Byte) : Word := 0x100#32 ||| x.setWidth 32

/-- DIN writes of the given words, in order. -/
def feedEvents (data : List Word) : List HostEvent := data.map (fun v => HostEvent.of (.wrDin v))

/-- `n` DOUT reads (`DRAIN n` of 30_encoding.md R101). -/
def drainEvents (n : Nat) : List HostEvent := List.replicate n (HostEvent.of (.rdDout 0#32))

/-- The host protocol for one image, steps 1 to 6 of 70_reset_and_hazards.md R343, with `n` DOUT reads. -/
def protocolEvents (w h : Word) (data : List Word) (n : Nat) : List HostEvent :=
  [HostEvent.of (.wrWidth w), HostEvent.of (.wrHeight h), HostEvent.of .cmdStart] ++ feedEvents data ++
    [HostEvent.of .cmdFinish, HostEvent.of (.rdStatus 0#32), HostEvent.of (.rdFileLen 0#32)] ++ drainEvents n

/-! ## The loop of 42_deflate_engine.md R202, as it is written there -/

/-- `code` and the list `next_code[0..]` after the first loop of R202 has run for L = 1 .. n. -/
def nextCodeLoop (lens : List Nat) : Nat → Nat × List Nat
  | 0 => (0, [0])
  | n + 1 =>
    let r := nextCodeLoop lens n
    let code := (r.1 + if n = 0 then 0 else lens.count n) <<< 1
    (code, r.2 ++ [code])

/-- The second loop of R202: each symbol in turn takes `next_code` of its length, which then grows by 1; a symbol of
length 0 has no code. -/
def assignLoop : List Nat → List Nat → List (Option Nat)
  | _, [] => []
  | next, l :: ls =>
    if l ≠ 0 then some (next.getD l 0) :: assignLoop (next.set l (next.getD l 0 + 1)) ls
    else none :: assignLoop next ls

/-- `code_of` by the two loops of R202. -/
def canonicalCodes (lens : List Nat) : List (Option Nat) := assignLoop (nextCodeLoop lens 15).2 lens

/-! ## A reader of PNG files (44_chunk_framer.md R282, R283) -/

/-- The value of a big-endian field. -/
def beValue (bs : List Byte) : Nat := bs.foldl (fun v b => 256 * v + b.toNat) 0

/-- The first chunk of a byte list, its CRC checked: tag, payload, and what follows. -/
def parseChunk (f : List Byte) : Option (List Byte × List Byte × List Byte) :=
  let n := beValue (f.take 4)
  let tag := (f.drop 4).take 4
  let payload := (f.drop 8).take n
  if n + 12 ≤ f.length ∧ (f.drop (8 + n)).take 4 = be32 (crc32 (tag ++ payload)) then
    some (tag, payload, f.drop (12 + n))
  else none

/-- A zlib decoder that checks the header, the body's end and the Adler-32 trailer (42_deflate_engine.md R213). -/
def zlibDecode (Z : List Byte) : Option (List Byte) :=
  let body := (Z.drop 2).take (Z.length - 6)
  match inflate body with
  | some (R, _) =>
    if Z.take 2 = [0x78#8, 0xDA#8] ∧ inflateOk body R = true ∧ Z.drop (Z.length - 4) = be32 (adler32 R) then some R
    else none
  | none => none

/-- Reversal of filter type 0: the filter byte of each row is dropped (41_null_filter.md R176). -/
def unfilter (w : Nat) : Nat → List Byte → Option (List Byte)
  | 0, [] => some []
  | 0, _ :: _ => none
  | _ + 1, [] => none
  | h + 1, x :: r =>
    if x = 0x00#8 ∧ 4 * w ≤ r.length then (unfilter w h (r.drop (4 * w))).map (r.take (4 * w) ++ ·) else none

/-- A reader of the files that this block writes: signature, exactly IHDR, IDAT and IEND in that order, nothing after
(44_chunk_framer.md R279, R281), then the three steps of R283. -/
def pngDecode (f : List Byte) : Option (Word × Word × List Byte) :=
  if f.take 8 ≠ [0x89#8, 0x50#8, 0x4E#8, 0x47#8, 0x0D#8, 0x0A#8, 0x1A#8, 0x0A#8] then none
  else
    match parseChunk (f.drop 8) with
    | none => none
    | some (t1, p1, r1) =>
      match parseChunk r1 with
      | none => none
      | some (t2, p2, r2) =>
        match parseChunk r2 with
        | none => none
        | some (t3, p3, r3) =>
          let w := BitVec.ofNat 32 (beValue (p1.take 4))
          let h := BitVec.ofNat 32 (beValue ((p1.drop 4).take 4))
          if t1 = [0x49#8, 0x48#8, 0x44#8, 0x52#8] ∧ p1.drop 8 = [0x08#8, 0x06#8, 0x00#8, 0x00#8, 0x00#8] ∧
              t2 = [0x49#8, 0x44#8, 0x41#8, 0x54#8] ∧ t3 = [0x49#8, 0x45#8, 0x4E#8, 0x44#8] ∧ p3 = [] ∧ r3 = [] then
            match zlibDecode p2 with
            | none => none
            | some R => (unfilter w.toNat h.toNat R).map (fun B => (w, h, B))
          else none

end Sys2Proof.Machine
end

