-- ==== Sys2Proof/Certificates/Slice0/Obligations.lean ====
section
/-! DEFINITION. The statements for the provers, from the numbered rules of spec/. `exec` is one access, `step` one event,
`session` a list of events; a state of the block in a conclusion is written out field by field. -/

open Sys2Proof Sys2Proof.Machine

/-! ## Encoding -/

/-- 30_encoding.md R90 to R98: the decoder gives back every well-formed instruction, with every operand.
That a read's ignored DATA is one of its operands is the model's choice (log entry 13). -/
def Obligations.DecodeOfEncodeIsTheInstruction : Prop :=
  ∀ i : Instr, i.wellFormed = true → decode (encode i) = i

/-- 30_encoding.md R91 for the decoding, and the model's choice of log entry 13 for the last clause: every descriptor
decodes to a well-formed instruction that encodes to it, bit for bit. R90 says that the DATA of a read is written as 0 and
ignored; that a read with nonzero DATA comes back with it holds because the instruction keeps the ignored DATA. -/
def Obligations.EncodeOfDecodeIsTheDescriptor : Prop :=
  ∀ d : Descriptor, (decode d).wellFormed = true ∧ encode (decode d) = d

/-- 30_encoding.md R91: at most one plain row of opcode_table.json matches a descriptor; every descriptor has a row by the
two steps of R91; and the decoder's instruction is that row's. -/
def Obligations.DecodeFollowsTheOpcodeTable : Prop :=
  ∀ d : Descriptor,
    (∀ r ∈ plainRows, ∀ r' ∈ plainRows, r.hits d = true → r'.hits d = true → r = r') ∧
    (tableLookup d).map Row.mnemonic = some (decode d).mnemonic

/-- 30_encoding.md R92, R93: the CMD word is OPCODE in bits 7 to 0 and RSVD above; a word with RSVD 0 and an opcode from
0 to 3 is its command, every other word is CMD.ILLEGAL. -/
def Obligations.CommandWordSelectsTheCommand : Prop :=
  ∀ data : Word,
    data.toNat = 256 * (cmdReserved data).toNat + (cmdOpcode data).toNat ∧
    decode (descriptor true 0x00#8 data) =
      (if cmdReserved data = 0#24 ∧ cmdOpcode data = 0x00#8 then .cmdNop
       else if cmdReserved data = 0#24 ∧ cmdOpcode data = 0x01#8 then .cmdStart
       else if cmdReserved data = 0#24 ∧ cmdOpcode data = 0x02#8 then .cmdFinish
       else if cmdReserved data = 0#24 ∧ cmdOpcode data = 0x03#8 then .cmdAbort
       else .cmdIllegal data)

/-- Descriptors of 95_test_vectors.md, with the accesses they stand for there. -/
def Obligations.VectorDescriptorsDecode : Prop :=
  decode 0x10000000000#41 = .cmdNop ∧ decode 0x10000000001#41 = .cmdStart ∧ decode 0x10000000002#41 = .cmdFinish ∧
  decode 0x10000000003#41 = .cmdAbort ∧ decode 0x10000000101#41 = .cmdIllegal 0x00000101#32 ∧
  decode 0x10800000294#41 = .wrWidth 0x00000294#32 ∧ decode 0x10C00000190#41 = .wrHeight 0x00000190#32 ∧
  decode 0x110000000FF#41 = .wrDin 0x000000FF#32 ∧ decode 0x00400000000#41 = .rdStatus 0#32 ∧
  decode 0x01400000000#41 = .rdDout 0#32 ∧ decode 0x02400000000#41 = .razwi false 0x24#8 0#32 ∧
  decode 0x104FFFFFFFF#41 = .razwi true 0x04#8 0xFFFFFFFF#32

/-! ## The step -/

/-- A step whose oldest event is an access runs the decoded instruction, the event gone from the list
(40_host_commands.md R120); so the access of a well-formed instruction runs that instruction. -/
def Obligations.StepRunsTheDecodedAccess : Prop :=
  (∀ (s : State) (d : Descriptor) (rest : List HostEvent), s.pending = .access d :: rest →
    step s = exec (decode d) { s with pending := rest }) ∧
  (∀ (s : State) (i : Instr) (rest : List HostEvent), i.wellFormed = true → s.pending = .access (encode i) :: rest →
    step s = exec i { s with pending := rest })

/-- 70_reset_and_hazards.md R340, 10_state.md R43: the reset event, in any phase, puts every field at its reset value,
and the registers then read as R43 says. That the events still to come and the parameters stay is the model's choice
(log entry 6). -/
def Obligations.ResetEventSetsEveryField : Prop :=
  ∀ (s : State) (rest : List HostEvent), s.pending = .reset :: rest →
    ∃ t, step s = .next t ∧ t.pending = rest ∧ t.config = s.config ∧
      t.block = { phase := .idle, errcode := 0#4, width := 0#32, height := 0#32, wl := 0#32, hl := 0#32, inCount := 0,
                  raw := [], outq := [], fileLen := 0 } ∧
      exec (.rdStatus 0#32) t = .next { t with rdata := some 0x00000000#32 } ∧
      exec (.rdWidth 0#32) t = .next { t with rdata := some 0#32 } ∧
      exec (.rdHeight 0#32) t = .next { t with rdata := some 0#32 } ∧
      exec (.rdInCount 0#32) t = .next { t with rdata := some 0#32 } ∧
      exec (.rdOutLevel 0#32) t = .next { t with rdata := some 0#32 } ∧
      exec (.rdDout 0#32) t = .next { t with rdata := some 0x00000000#32 } ∧
      exec (.rdFileLen 0#32) t = .next { t with rdata := some 0#32 }

/-- 10_state.md R43: `State.reset` holds the reset values, and the registers read them. -/
def Obligations.ResetStateHoldsTheResetValues : Prop :=
  State.reset.block = { phase := .idle, errcode := 0#4, width := 0x00000000#32, height := 0x00000000#32, wl := 0#32,
                        hl := 0#32, inCount := 0, raw := [], outq := [], fileLen := 0 } ∧
  exec (.rdStatus 0#32) State.reset = .next { State.reset with rdata := some 0x00000000#32 } ∧
  exec (.rdWidth 0#32) State.reset = .next { State.reset with rdata := some 0#32 } ∧
  exec (.rdHeight 0#32) State.reset = .next { State.reset with rdata := some 0#32 } ∧
  exec (.rdInCount 0#32) State.reset = .next { State.reset with rdata := some 0#32 } ∧
  exec (.rdOutLevel 0#32) State.reset = .next { State.reset with rdata := some 0#32 } ∧
  exec (.rdDout 0#32) State.reset = .next { State.reset with rdata := some 0x00000000#32 } ∧
  exec (.rdFileLen 0#32) State.reset = .next { State.reset with rdata := some 0#32 }

/-- 20_memory.md R67: a transfer that is no 32-bit access is refused by name. -/
def Obligations.TransferOfAnotherWidthIsRefused : Prop :=
  ∀ (s : State) (bits : Nat) (rest : List HostEvent), s.pending = .otherWidth bits :: rest →
    step s = .refused (.accessWidth bits)

/-- The model's choice (log entry 2): a step with no event to perform leaves the whole state as it is. -/
def Obligations.StepWithoutAnEventKeepsTheState : Prop :=
  ∀ s : State, s.pending = [] → step s = .next s

/-- 40_host_commands.md R120: every access in every state answers a next state, with read data exactly for a read; the
parameters and the events still to come are not touched (the last clause is about the model's own fields, log entries 1
and 3). -/
def Obligations.EveryAccessCompletes : Prop :=
  ∀ (d : Descriptor) (s : State), ∃ t, exec (decode d) s = .next t ∧ t.rdata.isSome = !descriptorWrite d ∧
    t.config = s.config ∧ t.pending = s.pending

/-! ## Commands -/

/-- 40_host_commands.md R121. -/
def Obligations.NopHasNoEffect : Prop :=
  ∀ s : State, exec .cmdNop s = .next { s with rdata := none }

/-- 40_host_commands.md R122: the four cases of START, the successful one last. -/
def Obligations.StartLatchesTheDimensions : Prop :=
  ∀ s : State,
    (s.block.phase = .error → exec .cmdStart s = .next { s with rdata := none }) ∧
    (s.block.phase = .accept → exec .cmdStart s = .next (s.afterError 2#4)) ∧
    (s.block.Resting → ¬ DimsLegal s.config s.block.width s.block.height →
      exec .cmdStart s = .next (s.afterError 3#4)) ∧
    (s.block.Resting → DimsLegal s.config s.block.width s.block.height →
      exec .cmdStart s = .next { s with
        block := { s.block with
          wl := s.block.width, hl := s.block.height, inCount := 0, raw := [], outq := [], fileLen := 0, errcode := 0#4,
          phase := .accept }
        rdata := none })

/-- 40_host_commands.md R136 and the corner cases of R122, for the parameters that 00_scope.md R6 allows: 4·W + 1 and the
product are not wrapped to 32 bits. -/
def Obligations.StartRefusesDimensionsThatWouldWrap : Prop :=
  ∀ s : State, s.config.ok = true → s.block.Resting →
    ((s.block.width = 0#32 ∨ s.block.height = 0#32) → exec .cmdStart s = .next (s.afterError 3#4)) ∧
    (0x40000000 ≤ s.block.width.toNat → 1 ≤ s.block.height.toNat → exec .cmdStart s = .next (s.afterError 3#4)) ∧
    (0x80000000 ≤ s.block.height.toNat → exec .cmdStart s = .next (s.afterError 3#4)) ∧
    (s.config.maxRaw = 2 ^ 32 - 1 → s.block.width = 0x3FFFFFFF#32 → s.block.height = 1#32 →
      ∃ t, exec .cmdStart s = .next t ∧ t.block.phase = .accept ∧ t.block.wl = 0x3FFFFFFF#32)

/-- 40_host_commands.md R123: the cases of FINISH, the successful one last; the file is R279's. -/
def Obligations.FinishReleasesTheFile : Prop :=
  ∀ s : State,
    let Z := zlib s.config s.block.raw
    let F := frame s.block.wl s.block.hl Z
    (s.block.phase = .error → exec .cmdFinish s = .next { s with rdata := none }) ∧
    (s.block.Resting → exec .cmdFinish s = .next (s.afterError 2#4)) ∧
    (s.block.phase = .accept → s.block.inCount ≠ 4 * s.block.wl.toNat * s.block.hl.toNat →
      exec .cmdFinish s = .next (s.afterError 4#4)) ∧
    (s.block.phase = .accept → s.block.inCount = 4 * s.block.wl.toNat * s.block.hl.toNat →
      (2 ^ 31 - 1 < Z.length ∨ s.config.outCap < F.length) → exec .cmdFinish s = .next (s.afterError 5#4)) ∧
    (s.block.phase = .accept → s.block.inCount = 4 * s.block.wl.toNat * s.block.hl.toNat →
      Z.length ≤ 2 ^ 31 - 1 → F.length ≤ s.config.outCap →
      exec .cmdFinish s = .next { s with
        block := { s.block with outq := F, fileLen := F.length, phase := .done }, rdata := none })

/-- 40_host_commands.md R124: from every phase; WIDTH and HEIGHT are kept. -/
def Obligations.AbortReturnsToIdle : Prop :=
  ∀ s : State, exec .cmdAbort s = .next { s with
    block := { s.block with
      phase := .idle, errcode := 0#4, wl := 0#32, hl := 0#32, inCount := 0, raw := [], outq := [], fileLen := 0 }
    rdata := none }

/-- 40_host_commands.md R125, 60_exceptions.md R301: a write to offset 0x00 of any DATA but 0 to 3 is CMD.ILLEGAL, and
CMD.ILLEGAL has no effect in ERROR and raises ILLEGAL_CMD in every other phase. -/
def Obligations.IllegalCommandWordRaisesIllegalCmd : Prop :=
  ∀ (s : State) (data : Word),
    (data ∉ [0#32, 1#32, 2#32, 3#32] → decode (descriptor true 0x00#8 data) = .cmdIllegal data) ∧
    (s.block.phase = .error → exec (.cmdIllegal data) s = .next { s with rdata := none }) ∧
    (s.block.phase ≠ .error → exec (.cmdIllegal data) s = .next (s.afterError 1#4))

/-! ## Register writes -/

/-- 40_host_commands.md R126: in every phase the register takes the value, it reads back, and nothing else changes. -/
def Obligations.WriteWidthStoresTheValue : Prop :=
  ∀ (s : State) (data ignored : Word), ∃ t,
    exec (.wrWidth data) s = .next t ∧ t = { s with block := { s.block with width := data }, rdata := none } ∧
    exec (.rdWidth ignored) t = .next { t with rdata := some data }

/-- 40_host_commands.md R127: the same for HEIGHT. -/
def Obligations.WriteHeightStoresTheValue : Prop :=
  ∀ (s : State) (data ignored : Word), ∃ t,
    exec (.wrHeight data) s = .next t ∧ t = { s with block := { s.block with height := data }, rdata := none } ∧
    exec (.rdHeight ignored) t = .next { t with rdata := some data }

/-- 40_host_commands.md R128: the cases of a DIN write, the accepted byte last; the byte is DATA[7:0], and the first byte
of a row comes behind the filter byte 0x00 (41_null_filter.md R174). -/
def Obligations.DinFeedsOneByte : Prop :=
  ∀ (s : State) (data : Word),
    let b : Byte := BitVec.ofNat 8 data.toNat
    (s.block.phase = .error → exec (.wrDin data) s = .next { s with rdata := none }) ∧
    (s.block.Resting → exec (.wrDin data) s = .next (s.afterError 2#4)) ∧
    (s.block.phase = .accept → s.block.inCount = 4 * s.block.wl.toNat * s.block.hl.toNat →
      exec (.wrDin data) s = .next (s.afterError 4#4)) ∧
    (s.block.phase = .accept → s.block.inCount ≠ 4 * s.block.wl.toNat * s.block.hl.toNat →
      exec (.wrDin data) s = .next { s with
        block := { s.block with
          raw := s.block.raw ++ (if s.block.inCount % (4 * s.block.wl.toNat) = 0 then [0x00#8, b] else [b])
          inCount := s.block.inCount + 1 }
        rdata := none })

/-- 30_encoding.md R95: DATA[31:8] of a DIN write is ignored. -/
def Obligations.DinIgnoresTheUpperBits : Prop :=
  ∀ (s : State) (data data' : Word), data.toNat % 256 = data'.toNat % 256 →
    exec (.wrDin data) s = exec (.wrDin data') s

/-! ## Register reads -/

/-- 10_state.md R25: a STATUS read changes nothing, and its value has the fields of R25, each in its bits, the reserved
bits 0. -/
def Obligations.StatusHasItsFields : Prop :=
  ∀ (s : State) (ignored : Word), ∃ v : Word,
    exec (.rdStatus ignored) s = .next { s with rdata := some v } ∧
    v.extractLsb' 0 2 = (match s.block.phase with
      | .idle => 0#2 | .accept => 1#2 | .done => 2#2 | .error => 3#2) ∧
    (v.getLsbD 2 = true ↔ s.block.phase = .done ∧ 0 < s.block.outq.length) ∧
    (v.getLsbD 3 = true ↔ s.block.phase = .error) ∧
    (v.getLsbD 4 = true ↔ s.block.phase = .accept ∧ s.block.inCount = 4 * s.block.wl.toNat * s.block.hl.toNat) ∧
    v.extractLsb' 5 3 = 0#3 ∧ v.extractLsb' 8 4 = s.block.errcode ∧ v.extractLsb' 12 20 = 0#20

/-- 40_host_commands.md R129, its ten values: which one STATUS reads in each state that meets the invariant of R42. -/
def Obligations.StatusIsOneOfTenValues : Prop :=
  ∀ (s : State) (ignored : Word), s.Inv → ∃ v : Word,
    exec (.rdStatus ignored) s = .next { s with rdata := some v } ∧
    (s.block.phase = .idle → v = 0x00000000#32) ∧
    (s.block.phase = .accept →
      v = if s.block.inCount = 4 * s.block.wl.toNat * s.block.hl.toNat then 0x00000011#32 else 0x00000001#32) ∧
    (s.block.phase = .done → v = if s.block.outq = [] then 0x00000002#32 else 0x00000006#32) ∧
    (s.block.phase = .error →
      v.toNat = 256 * s.block.errcode.toNat + 0xB ∧
      v ∈ [0x0000010B#32, 0x0000020B#32, 0x0000030B#32, 0x0000040B#32, 0x0000050B#32])

/-- 40_host_commands.md R130, R131: the registers, not the latched dimensions; nothing changes. -/
def Obligations.DimensionReadsGiveTheRegisters : Prop :=
  ∀ (s : State) (ignored : Word),
    exec (.rdWidth ignored) s = .next { s with rdata := some s.block.width } ∧
    exec (.rdHeight ignored) s = .next { s with rdata := some s.block.height }

/-- 40_host_commands.md R132: in DONE with a byte left, the head is popped and read with VALID; else 0 is read and
nothing changes. -/
def Obligations.DoutPopsTheHead : Prop :=
  ∀ (s : State) (ignored : Word),
    (∀ (x : Byte) (rest : List Byte), s.block.phase = .done → s.block.outq = x :: rest → ∃ v : Word,
      exec (.rdDout ignored) s = .next { s with block := { s.block with outq := rest }, rdata := some v } ∧
      v.toNat = 256 + x.toNat) ∧
    (¬ (s.block.phase = .done ∧ 0 < s.block.outq.length) →
      exec (.rdDout ignored) s = .next { s with rdata := some 0x00000000#32 })

/-- 40_host_commands.md R133, R134, R135, in a state that meets the invariant: each counter is read exactly, with no
truncation; OUT_LEVEL and FILE_LEN are 0 outside DONE; nothing changes. -/
def Obligations.CounterReadsAreExact : Prop :=
  ∀ (s : State) (ignored : Word), s.Inv → ∃ n l f : Word,
    exec (.rdInCount ignored) s = .next { s with rdata := some n } ∧ n.toNat = s.block.inCount ∧
    exec (.rdOutLevel ignored) s = .next { s with rdata := some l } ∧ l.toNat = s.block.outq.length ∧
    exec (.rdFileLen ignored) s = .next { s with rdata := some f } ∧ f.toNat = s.block.fileLen ∧
    (s.block.phase ≠ .done → l = 0#32 ∧ f = 0#32) ∧ l.toNat ≤ f.toNat

/-- In every state, reached or not, a counter read completes, gives the counter modulo 2^32 and changes nothing (R7 says
that the counters never reach 2^32; log entry 9). -/
def Obligations.CounterReadsComplete : Prop :=
  ∀ (s : State) (ignored : Word),
    exec (.rdInCount ignored) s = .next { s with rdata := some (BitVec.ofNat 32 s.block.inCount) } ∧
    exec (.rdOutLevel ignored) s = .next { s with rdata := some (BitVec.ofNat 32 s.block.outq.length) } ∧
    exec (.rdFileLen ignored) s = .next { s with rdata := some (BitVec.ofNat 32 s.block.fileLen) }

/-- 30_encoding.md R98: each access of its list is RAZWI, and RAZWI, with any operands, changes no state and gives 0 if it
is a read. -/
def Obligations.UnmappedAccessesReadZeroAndIgnoreWrites : Prop :=
  ∀ (s : State) (write : Bool) (offset : Offset) (data : Word),
    ((offset.toNat % 4 ≠ 0 ∨ 0x24 ≤ offset.toNat ∨ (write = false ∧ offset ∈ [0x00#8, 0x10#8]) ∨
        (write = true ∧ offset ∈ [0x04#8, 0x14#8, 0x18#8, 0x1C#8, 0x20#8])) →
      decode (descriptor write offset data) = .razwi write offset data) ∧
    exec (.razwi write offset data) s = .next { s with rdata := if write then none else some 0x00000000#32 }

/-! ## Rules of the whole machine -/

/-- 40_host_commands.md R137: the table of phase transitions, row by row. -/
def Obligations.PhaseTransitionsFollowTheTable : Prop :=
  ∀ (i : Instr) (s t : State), exec i s = .next t →
    match i, s.block.phase with
    | .cmdStart, .idle | .cmdStart, .done =>
      t.block.phase = .accept ∨ (t.block.phase = .error ∧ t.block.errcode = 3#4)
    | .cmdStart, .accept => t.block.phase = .error ∧ t.block.errcode = 2#4
    | .cmdFinish, .accept =>
      t.block.phase = .done ∨ (t.block.phase = .error ∧ (t.block.errcode = 4#4 ∨ t.block.errcode = 5#4))
    | .cmdFinish, .idle | .cmdFinish, .done => t.block.phase = .error ∧ t.block.errcode = 2#4
    | .cmdAbort, _ => t.block.phase = .idle
    | .cmdIllegal _, .idle | .cmdIllegal _, .accept | .cmdIllegal _, .done =>
      t.block.phase = .error ∧ t.block.errcode = 1#4
    | .wrDin _, .accept => t.block.phase = .accept ∨ (t.block.phase = .error ∧ t.block.errcode = 4#4)
    | .wrDin _, .idle | .wrDin _, .done => t.block.phase = .error ∧ t.block.errcode = 2#4
    | _, p => t.block.phase = p ∧ t.block.errcode = s.block.errcode

/-- 60_exceptions.md R300, R306: an access that enters ERROR, from any other phase, changes the code, the queue, the file
length and the phase, and nothing else; the code is from 1 to 5. -/
def Obligations.ErrorEntryIsPrecise : Prop :=
  ∀ (i : Instr) (s t : State), exec i s = .next t → s.block.phase ≠ .error → t.block.phase = .error →
    1 ≤ t.block.errcode.toNat ∧ t.block.errcode.toNat ≤ 5 ∧ t = s.afterError t.block.errcode

/-- 60_exceptions.md R301 to R305: from a state that meets the invariant and is not in ERROR, each code is raised in
exactly the cases its rule lists, and nothing beyond the code is recorded. -/
def Obligations.EachErrorHasExactlyItsCauses : Prop :=
  ∀ (i : Instr) (s t : State), s.Inv → s.block.phase ≠ .error → exec i s = .next t →
    let full := 4 * s.block.wl.toNat * s.block.hl.toNat
    ((t.block.phase = .error ∧ t.block.errcode = 1#4) ↔ ∃ data, i = .cmdIllegal data) ∧
    ((t.block.phase = .error ∧ t.block.errcode = 2#4) ↔
      (i = .cmdStart ∧ s.block.phase = .accept) ∨ (i = .cmdFinish ∧ s.block.Resting) ∨
      (∃ data, i = .wrDin data ∧ s.block.Resting)) ∧
    ((t.block.phase = .error ∧ t.block.errcode = 3#4) ↔
      i = .cmdStart ∧ s.block.Resting ∧ ¬ DimsLegal s.config s.block.width s.block.height) ∧
    ((t.block.phase = .error ∧ t.block.errcode = 4#4) ↔
      (i = .cmdFinish ∧ s.block.phase = .accept ∧ s.block.inCount < full) ∨
      (∃ data, i = .wrDin data ∧ s.block.phase = .accept ∧ s.block.inCount = full)) ∧
    ((t.block.phase = .error ∧ t.block.errcode = 5#4) ↔
      i = .cmdFinish ∧ s.block.phase = .accept ∧ s.block.inCount = full ∧
      (2 ^ 31 - 1 < (zlib s.config s.block.raw).length ∨ s.config.outCap < (zlib s.config s.block.raw).length + 57)) ∧
    (t.block.phase = .error → t = s.afterError t.block.errcode)

/-- 60_exceptions.md R308: in ERROR, ABORT and the dimension writes act, DOUT reads 0, and no other access changes the
block's record; the code is sticky. -/
def Obligations.ErrorPhaseIgnoresOtherAccesses : Prop :=
  ∀ (i : Instr) (s t : State), s.block.phase = .error → exec i s = .next t →
    match i with
    | .cmdAbort => t.block = { s.block with
        phase := .idle, errcode := 0#4, wl := 0#32, hl := 0#32, inCount := 0, raw := [], outq := [], fileLen := 0 }
    | .wrWidth data => t.block = { s.block with width := data }
    | .wrHeight data => t.block = { s.block with height := data }
    | .rdDout _ => t.block = s.block ∧ t.rdata = some 0x00000000#32
    | _ => t.block = s.block

/-- 60_exceptions.md R309: ERROR is left only by CMD.ABORT, which enters IDLE and keeps WIDTH and HEIGHT, or by reset. -/
def Obligations.OnlyAbortOrResetLeavesError : Prop :=
  ∀ s t : State, step s = .next t → s.block.phase = .error → t.block.phase ≠ .error →
    t.block.phase = .idle ∧
    ((∃ rest, s.pending = .reset :: rest) ∨
     (∃ rest, s.pending = HostEvent.of .cmdAbort :: rest ∧ t.block.width = s.block.width ∧
       t.block.height = s.block.height))

/-- The frame of every field of the block's record: which instructions may change it (10_state.md R26, R27, R30, R34, R35,
R38, R32, R33; 40_host_commands.md R121 to R135; 60_exceptions.md R300). -/
def Obligations.FieldsChangeOnlyByTheirWriters : Prop :=
  ∀ (i : Instr) (s t : State), exec i s = .next t →
    ((∀ v, i ≠ .wrWidth v) → t.block.width = s.block.width) ∧
    ((∀ v, i ≠ .wrHeight v) → t.block.height = s.block.height) ∧
    (i ≠ .cmdStart → i ≠ .cmdAbort → t.block.wl = s.block.wl ∧ t.block.hl = s.block.hl) ∧
    (i ≠ .cmdStart → i ≠ .cmdAbort → (∀ v, i ≠ .wrDin v) →
      t.block.inCount = s.block.inCount ∧ t.block.raw = s.block.raw) ∧
    (i ≠ .cmdStart → i ≠ .cmdFinish → i ≠ .cmdAbort → (∀ v, i ≠ .cmdIllegal v) → (∀ v, i ≠ .wrDin v) →
      t.block.phase = s.block.phase ∧ t.block.errcode = s.block.errcode ∧ t.block.fileLen = s.block.fileLen ∧
      ((∀ v, i ≠ .rdDout v) → t.block.outq = s.block.outq))

/-- 20_memory.md R68: the reads of group (a) and RAZWI change no state and give the same value when repeated; the writes
of group (b) are idempotent. -/
def Obligations.QuietAccessesRepeat : Prop :=
  ∀ (i : Instr) (s t : State), exec i s = .next t →
    match i with
    | .rdStatus _ | .rdWidth _ | .rdHeight _ | .rdInCount _ | .rdOutLevel _ | .rdFileLen _ | .razwi _ _ _ =>
      t.block = s.block ∧ exec i t = .next t
    | .wrWidth _ | .wrHeight _ => exec i t = .next t
    | _ => True

/-- 70_reset_and_hazards.md R346: outside DONE a DOUT read gives 0 and changes nothing; in DONE a data byte 0x00 gives
0x100. -/
def Obligations.DoutGivesNoByteOutsideDone : Prop :=
  ∀ (s : State) (ignored : Word),
    (s.block.phase ≠ .done → exec (.rdDout ignored) s = .next { s with rdata := some 0x00000000#32 }) ∧
    (∀ rest, s.block.phase = .done → s.block.outq = 0x00#8 :: rest →
      exec (.rdDout ignored) s = .next { s with block := { s.block with outq := rest }, rdata := some 0x00000100#32 })

/-! ## Invariants -/

/-- 10_state.md R42 at reset, for every legal choice of the parameters; `State.reset`, with the parameters of log entry 3, is
one of them. -/
def Obligations.ResetMeetsThePhaseInvariants : Prop :=
  (∀ c : Config, c.ok = true → (State.resetWith c).Inv) ∧ State.reset.Inv

/-- 10_state.md R41, R42: every step keeps the bounds of the record and the invariant of each phase: the raw stream is the
filtered form of the accepted bytes, in ACCEPT and in DONE, and in DONE the queue is a suffix of PNG_ENCODE of those same
bytes. -/
def Obligations.StepKeepsThePhaseInvariants : Prop :=
  ∀ s t : State, s.Inv → step s = .next t → t.Inv

/-- 10_state.md R33: the code is at most 5, and nonzero exactly in ERROR; every step keeps this by itself. -/
def Obligations.StepKeepsErrcodeNonzeroExactlyInError : Prop :=
  ∀ s t : State, step s = .next t →
    (s.block.errcode.toNat ≤ 5 ∧ (s.block.errcode ≠ 0#4 ↔ s.block.phase = .error)) →
    (t.block.errcode.toNat ≤ 5 ∧ (t.block.errcode ≠ 0#4 ↔ t.block.phase = .error))

/-! ## Null filter -/

/-- 41_null_filter.md R172, R173: row y of the raw stream is the filter byte 0x00 and then row y of the buffer, unchanged,
and nothing follows the last row. -/
def Obligations.RawStreamIsTheFilteredRows : Prop :=
  ∀ (w h : Nat) (buf : List Byte), 1 ≤ w → buf.length = 4 * w * h →
    (∀ y, y < h →
      ((rawStream w h buf).drop (y * (4 * w + 1))).take (4 * w + 1) =
        0x00#8 :: (buf.drop (y * (4 * w))).take (4 * w)) ∧
    (rawStream w h buf).drop (h * (4 * w + 1)) = []

/-- 41_null_filter.md R175. -/
def Obligations.RawStreamLength : Prop :=
  ∀ (w h : Nat) (buf : List Byte), buf.length = 4 * w * h → (rawStream w h buf).length = h * (4 * w + 1)

/-- 41_null_filter.md R177: the stream built byte by byte is the one built at once, and its length after n bytes is
n + ceil(n / 4W). -/
def Obligations.RawPrefixBuildsTheRawStream : Prop :=
  ∀ (w : Nat), 1 ≤ w →
    (∀ (h : Nat) (buf : List Byte), buf.length = 4 * w * h → rawPrefix w buf = rawStream w h buf) ∧
    (∀ bs : List Byte, (rawPrefix w bs).length = bs.length + (bs.length + 4 * w - 1) / (4 * w))

/-- 41_null_filter.md R176: reversing filter type 0 gives back the buffer. -/
def Obligations.UnfilterRecoversTheBuffer : Prop :=
  ∀ (w h : Nat) (buf : List Byte), buf.length = 4 * w * h → unfilter w h (rawStream w h buf) = some buf

/-! ## Deflate engine -/

/-- 42_deflate_engine.md R194: the loop of Adler-32, its sums below 65521, and a result that fits 32 bits. -/
def Obligations.AdlerFollowsItsLoop : Prop :=
  adler32 [] = 0x00000001#32 ∧ adlerSums [] = (1, 0) ∧
  (∀ (R : List Byte) (b : Byte),
    (adlerSums (R ++ [b])).1 = ((adlerSums R).1 + b.toNat) % 65521 ∧
    (adlerSums (R ++ [b])).2 = ((adlerSums R).2 + (adlerSums (R ++ [b])).1) % 65521) ∧
  (∀ R : List Byte, (adlerSums R).1 ≤ 65520 ∧ (adlerSums R).2 ≤ 65520 ∧
    (adler32 R).toNat = (adlerSums R).2 * 65536 + (adlerSums R).1)

/-- 42_deflate_engine.md R190 to R193, R195: the zlib container of the block, whatever the engine. -/
def Obligations.ZlibStreamHasItsHeaderAndTrailer : Prop :=
  ∀ (c : Config) (R : List Byte), ∃ D : List Byte,
    zlib c R = [0x78#8, 0xDA#8] ++ D ++ be32 (adler32 R) ∧ D = deflateImpl c R ∧
    (zlib c R).length = D.length + 6 ∧ 0x78DA % 31 = 0 ∧
    (zlib c R).drop ((zlib c R).length - 4) = be32 (adler32 R)

/-- 42_deflate_engine.md R202: for lengths of at most 15 bits, the decoder finds, for a code of L bits, exactly the symbol
to which the loops of R202, written out in `canonicalCodes`, give that code. The second clause is about the model's own
numbering `codeOf` (DEDUCED, log entry 12), for any lengths; with the first it says that the two constructions agree. -/
def Obligations.CanonicalDecodingFindsTheCodesSymbol : Prop :=
  ∀ (lens : List Nat) (L c s : Nat), 1 ≤ L →
    ((∀ l ∈ lens, l ≤ 15) →
      (symbolOf lens L c = some s ↔
        s < lens.length ∧ lens.getD s 0 = L ∧ (canonicalCodes lens)[s]? = some (some c))) ∧
    (symbolOf lens L c = some s ↔ s < lens.length ∧ lens.getD s 0 = L ∧ codeOf lens s = c)

/-- 42_deflate_engine.md R201: the fixed codes. `codeOf` is the model's numbering of log entry 12 (DEDUCED), which
`CanonicalDecodingFindsTheCodesSymbol` ties to the loops of R202. -/
def Obligations.FixedCodesAreTheTables : Prop :=
  (∀ s, s ≤ 143 → fixedLitLens.getD s 0 = 8 ∧ codeOf fixedLitLens s = 0b00110000 + s) ∧
  (∀ s, 144 ≤ s → s ≤ 255 → fixedLitLens.getD s 0 = 9 ∧ codeOf fixedLitLens s = 0b110010000 + (s - 144)) ∧
  (∀ s, 256 ≤ s → s ≤ 279 → fixedLitLens.getD s 0 = 7 ∧ codeOf fixedLitLens s = s - 256) ∧
  (∀ s, 280 ≤ s → s ≤ 287 → fixedLitLens.getD s 0 = 8 ∧ codeOf fixedLitLens s = 0b11000000 + (s - 280)) ∧
  (∀ d, d ≤ 31 → fixedDistLens.getD d 0 = 5 ∧ codeOf fixedDistLens d = d)

/-- 42_deflate_engine.md R211: STORED_REF is admissible: INFLATE of its output is exactly the input, with nothing left. -/
def Obligations.StoredRefIsAdmissible : Prop :=
  ∀ R : List Byte, inflateOk (storedRef R) R = true

/-- 42_deflate_engine.md R212. -/
def Obligations.StoredRefSizes : Prop :=
  ∀ (c : Config) (R : List Byte),
    (storedRef R).length = R.length + 5 * max 1 ((R.length + 65534) / 65535) ∧
    (c.engine = .storedRef → (zlib c R).length = R.length + 5 * max 1 ((R.length + 65534) / 65535) + 6)

/-- 42_deflate_engine.md R209, with log entry 4: whatever the free value is, the block's DEFLATE_IMPL is admissible. -/
def Obligations.BlockEngineIsAdmissible : Prop :=
  ∀ (c : Config) (R : List Byte), R.length ≤ c.maxRaw → inflateOk (deflateImpl c R) R = true

/-- 42_deflate_engine.md R213: a zlib decoder that checks header, body and trailer recovers the raw stream. -/
def Obligations.ZlibStreamDecodesToTheRawStream : Prop :=
  ∀ (c : Config) (R : List Byte), R.length ≤ c.maxRaw → zlibDecode (zlib c R) = some R

/-! ## CRC-32 and framing -/

/-- 43_crc32.md R253: the table-driven form gives the same value for every register and byte. -/
def Obligations.CrcTableFormAgrees : Prop :=
  (∀ (c : Word) (b : Byte), crcUpdate c b = crcUpdateByTable c b) ∧
  crcTable 0x00#8 = 0x00000000#32 ∧ crcTable 0x01#8 = 0x77073096#32 ∧ crcTable 0x80#8 = 0xEDB88320#32 ∧
  crcTable 0xFF#8 = 0x2D02EF8D#32

/-- 43_crc32.md R250, R255: the check value and the values of R255. -/
def Obligations.CrcCheckValues : Prop :=
  crc32 [0x31#8, 0x32#8, 0x33#8, 0x34#8, 0x35#8, 0x36#8, 0x37#8, 0x38#8, 0x39#8] = 0xCBF43926#32 ∧
  crc32 [] = 0x00000000#32 ∧ crc32 [0x49#8, 0x45#8, 0x4E#8, 0x44#8] = 0xAE426082#32 ∧
  crc32 [0xFF#8, 0xFF#8, 0xFF#8, 0xFF#8] = 0xFFFFFFFF#32 ∧
  crc32 (tagIhdr ++ ihdrPayload 660#32 400#32) = 0x10B6F0B7#32

/-- 44_chunk_framer.md R270, R272, R282: a chunk is its length, tag, payload and CRC; its length is |p| + 12; and a
reader that recomputes the CRC accepts it and finds the tag and the payload. -/
def Obligations.ChunkParsesBack : Prop :=
  ∀ tag payload rest : List Byte, tag.length = 4 → payload.length ≤ 2 ^ 31 - 1 →
    (chunk tag payload).length = payload.length + 12 ∧
    beValue ((chunk tag payload).take 4) = payload.length ∧
    parseChunk (chunk tag payload ++ rest) = some (tag, payload, rest)

/-- 44_chunk_framer.md R280: the file's length and the place of each fixed part. For Z of more than 2^31 − 1 bytes, which
R272 leaves out and no FINISH releases, what the statement says is the model's choice (log entry 14): the length field is
|Z| modulo 2^32. -/
def Obligations.FileHasItsLayout : Prop :=
  ∀ (w h : Word) (Z : List Byte),
    let F := frame w h Z
    F.length = Z.length + 57 ∧ F.take 8 = pngSignature ∧
    (F.drop 8).take 25 = chunk tagIhdr (ihdrPayload w h) ∧
    (F.drop 33).take 4 = be32 (BitVec.ofNat 32 Z.length) ∧ (F.drop 37).take 4 = tagIdat ∧
    (F.drop 41).take Z.length = Z ∧ (F.drop (41 + Z.length)).take 4 = be32 (crc32 (tagIdat ++ Z)) ∧
    F.drop (45 + Z.length) =
      [0x00#8, 0x00#8, 0x00#8, 0x00#8, 0x49#8, 0x45#8, 0x4E#8, 0x44#8, 0xAE#8, 0x42#8, 0x60#8, 0x82#8]

/-- 44_chunk_framer.md R284: the IHDR chunk of the source's 660×400 image. -/
def Obligations.DeploymentIhdrChunk : Prop :=
  chunk tagIhdr (ihdrPayload 660#32 400#32) =
    [0x00#8, 0x00#8, 0x00#8, 0x0D#8, 0x49#8, 0x48#8, 0x44#8, 0x52#8, 0x00#8, 0x00#8, 0x02#8, 0x94#8, 0x00#8] ++
    [0x00#8, 0x01#8, 0x90#8, 0x08#8, 0x06#8, 0x00#8, 0x00#8, 0x00#8, 0x10#8, 0xB6#8, 0xF0#8, 0xB7#8]

/-- 44_chunk_framer.md R283: the reader of R283 recovers width, height and buffer from the file of every legal image, under
every admissible engine. -/
def Obligations.PngFileDecodesToTheImage : Prop :=
  ∀ (c : Config) (w h : Word) (buf : List Byte),
    c.ok = true → DimsLegal c w h → buf.length = 4 * w.toNat * h.toNat →
    (zlib c (rawStream w.toNat h.toNat buf)).length ≤ 2 ^ 31 - 1 →
    pngDecode (pngEncode c w h buf) = some (w, h, buf)

/-! ## Sessions -/

/-- 42_deflate_engine.md R196, 41_null_filter.md R177, 40_host_commands.md R128: in an encode that has accepted nothing,
DIN writes of up to 4·wl·hl words leave their low bytes filtered in the raw stream, count them, and answer no data. -/
def Obligations.FeedingBuildsTheRawStream : Prop :=
  ∀ (s : State) (data : List Word), s.block.phase = .accept → s.block.inCount = 0 → s.block.raw = [] →
    data.length ≤ 4 * s.block.wl.toNat * s.block.hl.toNat → data ≠ [] →
    session (feedEvents data) s = some ([], { s with
      block := { s.block with raw := rawPrefix s.block.wl.toNat (data.map dinByte), inCount := data.length }
      pending := [], rdata := none })

/-- 40_host_commands.md R132: in DONE, the k-th DOUT read gives the k-th byte left in the queue with VALID, and reads after
the last give 0; the phase and FILE_LEN stay. -/
def Obligations.DrainingReadsTheQueueInOrder : Prop :=
  ∀ (s : State) (n : Nat), s.block.phase = .done → ∃ t,
    session (drainEvents n) s =
      some ((s.block.outq.take n).map doutWord ++ List.replicate (n - s.block.outq.length) 0x00000000#32, t) ∧
    t.block = { s.block with outq := s.block.outq.drop n } ∧ t.config = s.config

/-- 70_reset_and_hazards.md R343, 44_chunk_framer.md R279: the host protocol, from IDLE or DONE, for every legal image whose
file fits: STATUS reads 6, FILE_LEN the file's length, and the DOUT reads give the bytes of PNG_ENCODE(W, H, B), in
order, each with VALID; the queue is then empty, in DONE (R351). -/
def Obligations.HostProtocolDeliversTheFile : Prop :=
  ∀ (s : State) (w h : Word) (data : List Word),
    let F := pngEncode s.config w h (data.map dinByte)
    s.config.ok = true → s.block.Resting → DimsLegal s.config w h → data.length = 4 * w.toNat * h.toNat →
    F.length ≤ 2 ^ 31 - 1 + 57 → F.length ≤ s.config.outCap →
    ∃ t, session (protocolEvents w h data F.length) s =
        some (0x00000006#32 :: BitVec.ofNat 32 F.length :: F.map doutWord, t) ∧
      t.block.phase = .done ∧ t.block.outq = [] ∧ t.block.fileLen = F.length ∧ t.config = s.config
end

