-- ==== Sys2Proof/Laws/Decode.lean ====
section
/-! SUPPORT. The fields of a descriptor, and what the decoder makes of a write and of a read. -/

namespace Sys2Proof

/-- The bits of a descriptor, by field (30_encoding.md R90). -/
theorem getLsbD_descriptor (w : Bool) (o : Offset) (v : Word) (i : Nat) :
    (descriptor w o v).getLsbD i =
      if i < 32 then v.getLsbD i else if i - 32 < 8 then o.getLsbD (i - 32) else (BitVec.ofBool w).getLsbD (i - 40) := by
  have h1 := BitVec.getLsbD_append (x := BitVec.ofBool w ++ o) (y := v) (i := i)
  have h2 := BitVec.getLsbD_append (x := BitVec.ofBool w) (y := o) (i := i - 32)
  rw [h2, Nat.sub_sub] at h1
  exact h1

@[simp] theorem descriptorWrite_descriptor (w : Bool) (o : Offset) (v : Word) :
    descriptorWrite (descriptor w o v) = w := by
  simp [descriptorWrite, -BitVec.getLsbD_eq_getElem, getLsbD_descriptor]

@[simp] theorem descriptorOffset_descriptor (w : Bool) (o : Offset) (v : Word) :
    descriptorOffset (descriptor w o v) = o := by
  apply BitVec.eq_of_getLsbD_eq
  intro i hi
  simp only [descriptorOffset, BitVec.getLsbD_extractLsb', getLsbD_descriptor]
  have h1 : ¬ 32 + i < 32 := by omega
  have h2 : 32 + i - 32 = i := by omega
  simp [h1, h2, hi]

@[simp] theorem descriptorData_descriptor (w : Bool) (o : Offset) (v : Word) :
    descriptorData (descriptor w o v) = v := by
  apply BitVec.eq_of_getLsbD_eq
  intro i hi
  simp only [descriptorData, BitVec.getLsbD_extractLsb', getLsbD_descriptor]
  simp [hi]

/-- A descriptor is its three fields. -/
theorem descriptor_fields (d : Descriptor) :
    descriptor (descriptorWrite d) (descriptorOffset d) (descriptorData d) = d := by
  apply BitVec.eq_of_getLsbD_eq
  intro i hi
  simp only [getLsbD_descriptor, descriptorWrite, descriptorOffset, descriptorData, BitVec.getLsbD_extractLsb',
    BitVec.getLsbD_ofBool, Nat.zero_add]
  by_cases h1 : i < 32
  · simp [h1]
  · by_cases h2 : i - 32 < 8
    · have : 32 + (i - 32) = i := by omega
      simp [h1, h2, this]
    · have : i = 40 := by omega
      subst this
      simp

/-- The decoder on the fields of a descriptor. -/
@[simp] theorem decode_descriptor (w : Bool) (o : Offset) (v : Word) :
    decode (descriptor w o v) = if w then decodeWrite o v else decodeRead o v := by
  simp [decode]

end Sys2Proof
end

