-- ==== Sys2Proof/Laws/State.lean ====
section
/-! SUPPORT. What each shared update of the state does to each field. -/

namespace Sys2Proof.Machine

namespace State

variable (s : State) (v : Word) (b : Block)

@[simp] theorem endRead_config : (s.endRead v b).config = s.config := rfl
@[simp] theorem endRead_block : (s.endRead v b).block = b := rfl
@[simp] theorem endRead_pending : (s.endRead v b).pending = s.pending := rfl
@[simp] theorem endRead_rdata : (s.endRead v b).rdata = some v := rfl

@[simp] theorem endWrite_config : (s.endWrite b).config = s.config := rfl
@[simp] theorem endWrite_block : (s.endWrite b).block = b := rfl
@[simp] theorem endWrite_pending : (s.endWrite b).pending = s.pending := rfl
@[simp] theorem endWrite_rdata : (s.endWrite b).rdata = none := rfl

@[simp] theorem applyReset_config : s.applyReset.config = s.config := rfl
@[simp] theorem applyReset_block : s.applyReset.block = Block.reset := rfl
@[simp] theorem applyReset_pending : s.applyReset.pending = s.pending := rfl
@[simp] theorem applyReset_rdata : s.applyReset.rdata = none := rfl

@[simp] theorem resetWith_config (c : Config) : (State.resetWith c).config = c := rfl
@[simp] theorem resetWith_block (c : Config) : (State.resetWith c).block = Block.reset := rfl
@[simp] theorem resetWith_pending (c : Config) : (State.resetWith c).pending = [] := rfl
@[simp] theorem resetWith_rdata (c : Config) : (State.resetWith c).rdata = none := rfl

end State

namespace Block

variable (e : ErrorCode) (b : Block)

@[simp] theorem raise_phase : (b.raise e).phase = .error := rfl
@[simp] theorem raise_errcode : (b.raise e).errcode = e.code := rfl
@[simp] theorem raise_width : (b.raise e).width = b.width := rfl
@[simp] theorem raise_height : (b.raise e).height = b.height := rfl
@[simp] theorem raise_wl : (b.raise e).wl = b.wl := rfl
@[simp] theorem raise_hl : (b.raise e).hl = b.hl := rfl
@[simp] theorem raise_inCount : (b.raise e).inCount = b.inCount := rfl
@[simp] theorem raise_raw : (b.raise e).raw = b.raw := rfl
@[simp] theorem raise_outq : (b.raise e).outq = [] := rfl
@[simp] theorem raise_fileLen : (b.raise e).fileLen = 0 := rfl

@[simp] theorem abort_phase : b.abort.phase = .idle := rfl
@[simp] theorem abort_errcode : b.abort.errcode = 0#4 := rfl
@[simp] theorem abort_width : b.abort.width = b.width := rfl
@[simp] theorem abort_height : b.abort.height = b.height := rfl
@[simp] theorem abort_wl : b.abort.wl = 0#32 := rfl
@[simp] theorem abort_hl : b.abort.hl = 0#32 := rfl
@[simp] theorem abort_inCount : b.abort.inCount = 0 := rfl
@[simp] theorem abort_raw : b.abort.raw = [] := rfl
@[simp] theorem abort_outq : b.abort.outq = [] := rfl
@[simp] theorem abort_fileLen : b.abort.fileLen = 0 := rfl

end Block

/-- Every error code is from 1 to 5 (10_state.md R33). -/
theorem ErrorCode.code_range (e : ErrorCode) : 1 ≤ e.code.toNat ∧ e.code.toNat ≤ 5 := by
  cases e <;> decide

/-- What a DOUT read can do: pop the head in DONE, or nothing. -/
theorem Block.readDout_cases (b : Block) :
    (∃ x rest, b.phase = .done ∧ b.outq = x :: rest ∧
      b.readDout = (0x100#32 ||| x.setWidth 32, { b with outq := rest })) ∨
    (¬(b.phase = .done ∧ b.outq ≠ []) ∧ b.readDout = (0x00000000#32, b)) := by
  unfold Block.readDout
  split
  · next x rest hp hq => exact .inl ⟨x, rest, hp, hq, rfl⟩
  · next h =>
    refine .inr ⟨fun ⟨hp, hq⟩ => ?_, rfl⟩
    obtain ⟨x, rest, hx⟩ := List.exists_cons_of_ne_nil hq
    exact h x rest hp hx

/-- The lengths of the two byte orders. -/
@[simp] theorem be32_length (v : Word) : (be32 v).length = 4 := rfl
@[simp] theorem le16_length (v : BitVec 16) : (le16 v).length = 2 := rfl

end Sys2Proof.Machine
end

