-- ==== Sys2Proof/Laws/Exec.lean ====
section
/-! SUPPORT. Everything that START, FINISH, an illegal command and a DIN write can do to the block's record, said once;
and what every access leaves alone. -/

namespace Sys2Proof.Machine

/-! ## The state after each instruction -/

section

variable (s : State) (v : Word)

@[simp] theorem exec_cmdNop : exec .cmdNop s = .next (s.endWrite s.block) := rfl
@[simp] theorem exec_cmdStart : exec .cmdStart s = .next (s.endWrite (s.block.start s.config)) := rfl
@[simp] theorem exec_cmdFinish : exec .cmdFinish s = .next (s.endWrite (s.block.finish s.config)) := rfl
@[simp] theorem exec_cmdAbort : exec .cmdAbort s = .next (s.endWrite s.block.abort) := rfl
@[simp] theorem exec_cmdIllegal : exec (.cmdIllegal v) s = .next (s.endWrite s.block.illegalCommand) := rfl
@[simp] theorem exec_wrWidth : exec (.wrWidth v) s = .next (s.endWrite { s.block with width := v }) := rfl
@[simp] theorem exec_wrHeight : exec (.wrHeight v) s = .next (s.endWrite { s.block with height := v }) := rfl
@[simp] theorem exec_wrDin : exec (.wrDin v) s = .next (s.endWrite (s.block.feed (dinByte v))) := rfl
@[simp] theorem exec_rdStatus : exec (.rdStatus v) s = .next (s.endRead s.block.statusWord s.block) := rfl
@[simp] theorem exec_rdWidth : exec (.rdWidth v) s = .next (s.endRead s.block.width s.block) := rfl
@[simp] theorem exec_rdHeight : exec (.rdHeight v) s = .next (s.endRead s.block.height s.block) := rfl
@[simp] theorem exec_rdDout : exec (.rdDout v) s = .next (s.endRead s.block.readDout.1 s.block.readDout.2) := rfl
@[simp] theorem exec_rdInCount :
    exec (.rdInCount v) s = .next (s.endRead (BitVec.ofNat 32 s.block.inCount) s.block) := rfl
@[simp] theorem exec_rdOutLevel :
    exec (.rdOutLevel v) s = .next (s.endRead (BitVec.ofNat 32 s.block.outq.length) s.block) := rfl
@[simp] theorem exec_rdFileLen :
    exec (.rdFileLen v) s = .next (s.endRead (BitVec.ofNat 32 s.block.fileLen) s.block) := rfl
@[simp] theorem exec_razwi_write (o : Offset) : exec (.razwi true o v) s = .next (s.endWrite s.block) := rfl
@[simp] theorem exec_razwi_read (o : Offset) : exec (.razwi false o v) s = .next (s.endRead 0x00000000#32 s.block) := rfl

end

/-! ## The outcomes of the accesses that act -/

/-- The four outcomes of START (40_host_commands.md R122). -/
theorem Block.start_cases (c : Config) (b : Block) :
    (b.phase = .error ∧ b.start c = b) ∨
    (b.phase = .accept ∧ b.start c = b.raise .sequence) ∨
    ((b.phase = .idle ∨ b.phase = .done) ∧ dimsOk c.maxRaw b.width.toNat b.height.toNat = false ∧
      b.start c = b.raise .badDim) ∨
    ((b.phase = .idle ∨ b.phase = .done) ∧ dimsOk c.maxRaw b.width.toNat b.height.toNat = true ∧
      b.start c = { b with wl := b.width, hl := b.height, inCount := 0, raw := [], outq := [], fileLen := 0,
                           errcode := 0#4, phase := .accept }) := by
  unfold Block.start
  cases h : b.phase <;> cases hd : dimsOk c.maxRaw b.width.toNat b.height.toNat <;> simp

/-- The five outcomes of FINISH (40_host_commands.md R123). -/
theorem Block.finish_cases (c : Config) (b : Block) :
    (b.phase = .error ∧ b.finish c = b) ∨
    ((b.phase = .idle ∨ b.phase = .done) ∧ b.finish c = b.raise .sequence) ∨
    (b.phase = .accept ∧ b.inCount ≠ b.bufferBytes ∧ b.finish c = b.raise .sizeMismatch) ∨
    (b.phase = .accept ∧ b.inCount = b.bufferBytes ∧ b.overflows c = true ∧ b.finish c = b.raise .outOverflow) ∨
    (b.phase = .accept ∧ b.inCount = b.bufferBytes ∧ b.overflows c = false ∧
      b.finish c = { b with outq := b.file c, fileLen := (b.file c).length, phase := .done }) := by
  unfold Block.finish
  cases h : b.phase <;> by_cases hn : b.inCount = b.bufferBytes <;> cases ho : b.overflows c <;> simp [hn]

/-- The two outcomes of an illegal command (40_host_commands.md R125). -/
theorem Block.illegalCommand_cases (b : Block) :
    (b.phase = .error ∧ b.illegalCommand = b) ∨ (b.phase ≠ .error ∧ b.illegalCommand = b.raise .illegalCmd) := by
  unfold Block.illegalCommand
  cases h : b.phase <;> simp

/-- The four outcomes of a DIN write (40_host_commands.md R128). -/
theorem Block.feed_cases (x : Byte) (b : Block) :
    (b.phase = .error ∧ b.feed x = b) ∨
    ((b.phase = .idle ∨ b.phase = .done) ∧ b.feed x = b.raise .sequence) ∨
    (b.phase = .accept ∧ b.inCount = b.bufferBytes ∧ b.feed x = b.raise .sizeMismatch) ∨
    (b.phase = .accept ∧ b.inCount ≠ b.bufferBytes ∧
      b.feed x = { b with raw := filterByte b.raw b.inCount b.wl.toNat x, inCount := b.inCount + 1 }) := by
  unfold Block.feed
  cases h : b.phase <;> by_cases hn : b.inCount = b.bufferBytes <;> simp [hn]

/-- The dimension check, as its five conditions (40_host_commands.md R136). -/
theorem dimsOk_iff (m w h : Nat) :
    dimsOk m w h = true ↔
      1 ≤ w ∧ w ≤ 2 ^ 31 - 1 ∧ 1 ≤ h ∧ h ≤ 2 ^ 31 - 1 ∧ h * (4 * w + 1) ≤ m := by
  simp only [dimsOk, Bool.and_eq_true, decide_eq_true_eq]
  simp only [pngLimit]
  tauto

/-- The overflow check, as its two conditions (60_exceptions.md R305). -/
theorem Block.overflows_iff (c : Config) (b : Block) :
    b.overflows c = true ↔ 2 ^ 31 - 1 < (zlib c b.raw).length ∨ c.outCap < (b.file c).length := by
  simp only [Block.overflows, Bool.or_eq_true, decide_eq_true_eq]

end Sys2Proof.Machine
end

