-- ==== Sys2Proof/Laws/PerInstr.lean ====
section
/-! SUPPORT. The family EncodesInRow: the descriptor of every instruction lies in its own row of opcode_table.json, the
row of its mnemonic (30_encoding.md R91). -/

namespace Sys2Proof.Laws.EncodesInRow

/-- The row of the instruction's mnemonic matches its descriptor. -/
def Statement (i : Instr) : Prop :=
  ∃ r ∈ opcodeTable, r.mnemonic = i.mnemonic ∧ r.hits (encode i) = true

/-- A row whose mask is RW and OFFSET matches every DATA. -/
theorem hits_of_offset (w : Bool) (o : Offset) (v : Word) :
    descriptor w o v &&& 0x1FF00000000#41 = descriptor w o 0#32 := by
  apply BitVec.eq_of_getLsbD_eq
  intro i hi
  have hm : (0x1FF00000000#41).getLsbD i = decide (32 ≤ i) := by
    have : ∀ j : Fin 41, (0x1FF00000000#41).getLsbD j.val = decide (32 ≤ j.val) := by decide
    exact this ⟨i, hi⟩
  simp only [BitVec.getLsbD_and, hm, getLsbD_descriptor, BitVec.getLsbD_zero]
  by_cases h : i < 32
  · simp [h]
  · simp [h, Nat.le_of_not_lt h]

theorem cmdNop : Statement .cmdNop := ⟨opcodeTable[0], by decide, by decide, by decide⟩
theorem cmdStart : Statement .cmdStart := ⟨opcodeTable[1], by decide, by decide, by decide⟩
theorem cmdFinish : Statement .cmdFinish := ⟨opcodeTable[2], by decide, by decide, by decide⟩
theorem cmdAbort : Statement .cmdAbort := ⟨opcodeTable[3], by decide, by decide, by decide⟩
theorem cmdIllegal (data : Word) : Statement (.cmdIllegal data) :=
  ⟨opcodeTable[4], by decide, rfl, by simp [opcodeTable, Row.hits, encode, hits_of_offset]; decide⟩
theorem wrWidth (data : Word) : Statement (.wrWidth data) :=
  ⟨opcodeTable[5], by decide, rfl, by simp [opcodeTable, Row.hits, encode, hits_of_offset]; decide⟩
theorem wrHeight (data : Word) : Statement (.wrHeight data) :=
  ⟨opcodeTable[6], by decide, rfl, by simp [opcodeTable, Row.hits, encode, hits_of_offset]; decide⟩
theorem wrDin (data : Word) : Statement (.wrDin data) :=
  ⟨opcodeTable[7], by decide, rfl, by simp [opcodeTable, Row.hits, encode, hits_of_offset]; decide⟩
theorem rdStatus (data : Word) : Statement (.rdStatus data) :=
  ⟨opcodeTable[8], by decide, rfl, by simp [opcodeTable, Row.hits, encode, hits_of_offset]; decide⟩
theorem rdWidth (data : Word) : Statement (.rdWidth data) :=
  ⟨opcodeTable[9], by decide, rfl, by simp [opcodeTable, Row.hits, encode, hits_of_offset]; decide⟩
theorem rdHeight (data : Word) : Statement (.rdHeight data) :=
  ⟨opcodeTable[10], by decide, rfl, by simp [opcodeTable, Row.hits, encode, hits_of_offset]; decide⟩
theorem rdDout (data : Word) : Statement (.rdDout data) :=
  ⟨opcodeTable[11], by decide, rfl, by simp [opcodeTable, Row.hits, encode, hits_of_offset]; decide⟩
theorem rdInCount (data : Word) : Statement (.rdInCount data) :=
  ⟨opcodeTable[12], by decide, rfl, by simp [opcodeTable, Row.hits, encode, hits_of_offset]; decide⟩
theorem rdOutLevel (data : Word) : Statement (.rdOutLevel data) :=
  ⟨opcodeTable[13], by decide, rfl, by simp [opcodeTable, Row.hits, encode, hits_of_offset]; decide⟩
theorem rdFileLen (data : Word) : Statement (.rdFileLen data) :=
  ⟨opcodeTable[14], by decide, rfl, by simp [opcodeTable, Row.hits, encode, hits_of_offset]; decide⟩
theorem razwi (write : Bool) (offset : Offset) (data : Word) : Statement (.razwi write offset data) :=
  ⟨opcodeTable[15], by decide, rfl, by simp [opcodeTable, Row.hits]⟩

end Sys2Proof.Laws.EncodesInRow
end

