-- ==== Sys2Proof/Tests/Slice0.lean ====
section
/-! SUPPORT. Tests of the model against values worked out in spec/ (95_test_vectors.md and the examples of the rules), and
for each statement with hypotheses a theorem that shows a state and operands meeting them. -/

namespace Sys2Proof.Tests

open Sys2Proof Sys2Proof.Machine

/-! ## Small states -/

/-- A state of a block with STORED_REF and the largest capacities, as 95_test_vectors.md has it. -/
def st (b : Block) : State := { config := Config.reference, block := b, pending := [], rdata := none }

/-- A 1×1 encode that has accepted nothing ("Setup 1×1" of 95_test_vectors.md). -/
def setup11 : Block := { Block.reset with phase := .accept, width := 1#32, height := 1#32, wl := 1#32, hl := 1#32 }

/-- The buffer of program P1. -/
def redPixel : List Byte := [0xFF#8, 0x00#8, 0x00#8, 0xFF#8]

/-- The 1×1 encode with the whole buffer accepted. -/
def full11 : Block :=
  { setup11 with inCount := 4, raw := [0x00#8, 0xFF#8, 0x00#8, 0x00#8, 0xFF#8] }

/-- The file of program P1. -/
def redFile : List Byte :=
  [0x89#8, 0x50#8, 0x4E#8, 0x47#8, 0x0D#8, 0x0A#8, 0x1A#8, 0x0A#8, 0x00#8, 0x00#8, 0x00#8, 0x0D#8, 0x49#8, 0x48#8] ++
  [0x44#8, 0x52#8, 0x00#8, 0x00#8, 0x00#8, 0x01#8, 0x00#8, 0x00#8, 0x00#8, 0x01#8, 0x08#8, 0x06#8, 0x00#8, 0x00#8] ++
  [0x00#8, 0x1F#8, 0x15#8, 0xC4#8, 0x89#8, 0x00#8, 0x00#8, 0x00#8, 0x10#8, 0x49#8, 0x44#8, 0x41#8, 0x54#8, 0x78#8] ++
  [0xDA#8, 0x01#8, 0x05#8, 0x00#8, 0xFA#8, 0xFF#8, 0x00#8, 0xFF#8, 0x00#8, 0x00#8, 0xFF#8, 0x05#8, 0x00#8, 0x01#8] ++
  [0xFF#8, 0xE4#8, 0xB6#8, 0x3A#8, 0xA6#8, 0x00#8, 0x00#8, 0x00#8, 0x00#8, 0x49#8, 0x45#8, 0x4E#8, 0x44#8, 0xAE#8] ++
  [0x42#8, 0x60#8, 0x82#8]

/-- The block after FINISH of the 1×1 encode, `q` of the file unread. -/
def done11 (q : List Byte) : Block := { full11 with phase := .done, outq := q, fileLen := 73 }

/-- A block in ERROR with code SEQUENCE. -/
def failed : Block := { setup11 with phase := .error, errcode := 2#4 }

/-- The state after an instruction; the same state if it stops. -/
def run (i : Instr) (s : State) : State :=
  match exec i s with
  | .next t => t
  | .fault _ => s
  | .refused _ => s

/-! ## Decoding: words written out from opcode_table.json and 30_encoding.md R90 -/

theorem test_decode_cmdNop : decode 0x10000000000#41 = .cmdNop := by decide
theorem test_decode_cmdStart : decode 0x10000000001#41 = .cmdStart := by decide
theorem test_decode_cmdFinish : decode 0x10000000002#41 = .cmdFinish := by decide
theorem test_decode_cmdAbort : decode 0x10000000003#41 = .cmdAbort := by decide
theorem test_decode_cmdIllegal : decode 0x10000000004#41 = .cmdIllegal 0x00000004#32 := by decide
theorem test_decode_cmdIllegal_reserved : decode 0x10000000101#41 = .cmdIllegal 0x00000101#32 := by decide
theorem test_decode_wrWidth : decode 0x10800000294#41 = .wrWidth 660#32 := by decide
theorem test_decode_wrHeight : decode 0x10C00000190#41 = .wrHeight 400#32 := by decide
theorem test_decode_wrDin : decode 0x110000001FF#41 = .wrDin 0x000001FF#32 := by decide
theorem test_decode_rdStatus : decode 0x00400000000#41 = .rdStatus 0#32 := by decide
theorem test_decode_rdWidth : decode 0x00800000000#41 = .rdWidth 0#32 := by decide
theorem test_decode_rdHeight : decode 0x00C00000000#41 = .rdHeight 0#32 := by decide
theorem test_decode_rdDout : decode 0x01400000000#41 = .rdDout 0#32 := by decide
theorem test_decode_rdInCount : decode 0x01800000000#41 = .rdInCount 0#32 := by decide
theorem test_decode_rdOutLevel : decode 0x01C00000000#41 = .rdOutLevel 0#32 := by decide
theorem test_decode_rdFileLen : decode 0x02000000000#41 = .rdFileLen 0#32 := by decide
theorem test_decode_razwi_misaligned : decode 0x00500000000#41 = .razwi false 0x05#8 0#32 := by decide
theorem test_decode_razwi_write : decode 0x104FFFFFFFF#41 = .razwi true 0x04#8 0xFFFFFFFF#32 := by decide
theorem test_decode_too_wide : decodeWord 0x20000000000 = .error .notADescriptor := by decide
theorem test_decodeTableWord : decodeTableWord 48 0x10000000001 = some .cmdStart := by decide

/-! ## WellFormed: an ill-formed term for each check -/

theorem test_wellFormed_refuses_command_word : (Instr.cmdIllegal 0x00000003#32).wellFormed = false := by decide
theorem test_wellFormed_refuses_mapped_write : (Instr.razwi true 0x10#8 0#32).wellFormed = false := by decide
theorem test_wellFormed_refuses_mapped_read : (Instr.razwi false 0x20#8 0#32).wellFormed = false := by decide
theorem test_wellFormed_refuses_cmd_write : (Instr.razwi true 0x00#8 9#32).wellFormed = false := by decide

/-! ## The step and the host's entry points -/

theorem test_step_runs_placed_access :
    step (State.reset.withFetchWord 48 0x10000000002) = exec .cmdFinish State.reset := by rfl
theorem test_step_refuses_half_word : step { State.reset with pending := [.otherWidth 16] } = .refused (.accessWidth 16) := by
  rfl

/-! ## One access (95_test_vectors.md L2.6, and the examples of 40_host_commands.md) -/

theorem test_nop_keeps_done : (run .cmdNop (st (done11 redFile))).block = done11 redFile := by decide
theorem test_start_refuses_zero_width : (run .cmdStart State.reset).block.statusWord = 0x0000030B#32 := by decide
theorem test_start_latches :
    (run .cmdStart (st { Block.reset with width := 0x3FFFFFFF#32, height := 1#32 })).block.wl = 0x3FFFFFFF#32 := by decide
theorem test_finish_writes_the_file : (run .cmdFinish (st full11)).block.outq = redFile := by decide +kernel
theorem test_finish_overflows_at_72 :
    (run .cmdFinish { st full11 with config := ⟨72, 2 ^ 32 - 1, .storedRef⟩ }).block.statusWord = 0x0000050B#32 := by
  decide +kernel
theorem test_abort_keeps_width : (run .cmdAbort (st failed)).block.width = 1#32 := by decide
theorem test_abort_leaves_error : (run .cmdAbort (st failed)).block.statusWord = 0#32 := by decide
theorem test_illegal_word : (run (.cmdIllegal 0x00000101#32) State.reset).block.statusWord = 0x0000010B#32 := by decide
theorem test_illegal_word_ignored_in_error : (run (.cmdIllegal 0x77#32) (st failed)).block = failed := by decide
theorem test_width_written_in_error : (run (.wrWidth 7#32) (st failed)).block.width = 7#32 := by decide
theorem test_height_does_not_reach_latch : (run (.wrHeight 9#32) (st setup11)).block.hl = 1#32 := by decide
theorem test_din_inserts_filter_byte :
    (run (.wrDin 0x000001FF#32) (st setup11)).block.raw = [0x00#8, 0xFF#8] := by decide
theorem test_din_past_the_end : (run (.wrDin 5#32) (st full11)).block.statusWord = 0x0000040B#32 := by decide
theorem test_status_in_full : (run (.rdStatus 0#32) (st full11)).rdata = some 0x00000011#32 := by decide
theorem test_status_done_drained : (run (.rdStatus 0#32) (st (done11 []))).rdata = some 0x00000002#32 := by decide
theorem test_width_read_is_register :
    (run (.rdWidth 5#32) (st { setup11 with width := 9#32 })).rdata = some 9#32 := by decide
theorem test_height_read_is_register :
    (run (.rdHeight 5#32) (st { setup11 with height := 400#32 })).rdata = some 0x00000190#32 := by decide
theorem test_dout_first_byte : (run (.rdDout 0#32) (st (done11 redFile))).rdata = some 0x00000189#32 := by decide
theorem test_dout_pops : (run (.rdDout 0#32) (st (done11 redFile))).block.outq = redFile.tail := by decide
theorem test_in_count_kept_in_error : (run (.rdInCount 0#32) (st { failed with inCount := 7 })).rdata = some 7#32 := by decide
theorem test_out_level : (run (.rdOutLevel 0#32) (st (done11 redFile))).rdata = some 73#32 := by decide
theorem test_file_len_after_drain : (run (.rdFileLen 0#32) (st (done11 []))).rdata = some 0x00000049#32 := by decide
theorem test_razwi_read : (run (.razwi false 0xFC#8 0#32) (st (done11 redFile))).rdata = some 0#32 := by decide
theorem test_razwi_write : (run (.razwi true 0x20#8 5#32) (st (done11 redFile))).block = done11 redFile := by decide

/-! ## The datapath (95_test_vectors.md L2.1 to L2.5) -/

theorem test_crc_of_a : crc32 [0x61#8] = 0xE8B7BE43#32 := by decide
theorem test_adler_wraps : adler32 (List.replicate 258 0xFF#8) = 0x091D010E#32 := by decide +kernel
theorem test_raw_stream_two_rows :
    rawStream 1 2 [1#8, 2#8, 3#8, 4#8, 5#8, 6#8, 7#8, 8#8] = [0#8, 1#8, 2#8, 3#8, 4#8, 0#8, 5#8, 6#8, 7#8, 8#8] := by decide
theorem test_stored_ref_empty : storedRef [] = [0x01#8, 0x00#8, 0x00#8, 0xFF#8, 0xFF#8] := by decide
theorem test_inflate_overlapping_copy :
    inflate [0x73#8, 0x04#8, 0x02#8, 0x00#8] = some ([0x41#8, 0x41#8, 0x41#8, 0x41#8], 30) := by decide +kernel
theorem test_inflate_refuses_length_258_by_284 : inflate [0x73#8, 0x1C#8, 0xF9#8, 0x00#8, 0x00#8] = none := by
  decide +kernel
theorem test_inflate_refuses_nonzero_padding : inflateOk [0x03#8, 0x80#8] [] = false := by decide +kernel
theorem test_inflate_dynamic_block :
    (inflate ([0x1D#8, 0xC2#8, 0x01#8, 0x09#8, 0x00#8, 0x00#8, 0x0C#8, 0x04#8, 0xA1#8, 0xAC#8, 0xDE#8] ++
      [0xF7#8, 0xEF#8, 0x30#8, 0x98#8, 0xA8#8, 0xB1#8, 0x16#8, 0x32#8, 0xF5#8, 0x1D#8])).map
      (fun r => (r.1.take 6, r.1.length, r.2)) = some ([0x61#8, 0x62#8, 0x63#8, 0x61#8, 0x61#8, 0x63#8], 24, 166) := by
  decide +kernel

/-! ## Witnesses: states that meet the hypotheses of the statements -/

theorem inv_idle : State.reset.Inv :=
  ⟨by decide, ⟨by decide, by decide, by decide, by decide⟩, rfl, rfl, rfl, rfl, rfl⟩
theorem dims11 (c : Config) (h : 5 ≤ c.maxRaw) : DimsLegal c 1#32 1#32 := by simpa [DimsLegal] using h
theorem inv_accept : (st setup11).Inv :=
  ⟨by decide, ⟨by decide, by decide, by decide, by decide⟩, rfl, rfl, rfl, dims11 _ (by decide), by decide, [], rfl, rfl⟩
theorem inv_accept_full : (st full11).Inv :=
  ⟨by decide, ⟨by decide, by decide, by decide, by decide⟩, rfl, rfl, rfl, dims11 _ (by decide), by decide, redPixel, rfl, rfl⟩
theorem redFile_encodes : pngEncode Config.reference 1#32 1#32 redPixel = redFile := by decide +kernel
theorem inv_done : (st (done11 redFile)).Inv := by
  refine ⟨by decide, ⟨by decide, by decide, by decide, by decide⟩, rfl, rfl, redPixel, rfl, rfl, ?_, ?_⟩
  · show 73 = (pngEncode Config.reference 1#32 1#32 redPixel).length
    rw [redFile_encodes]; decide
  · show redFile <:+ pngEncode Config.reference 1#32 1#32 redPixel
    rw [redFile_encodes]
theorem inv_done_drained : (st (done11 [])).Inv := by
  refine ⟨by decide, ⟨by decide, by decide, by decide, by decide⟩, rfl, rfl, redPixel, rfl, rfl, ?_, List.nil_suffix⟩
  show 73 = (pngEncode Config.reference 1#32 1#32 redPixel).length
  rw [redFile_encodes]; decide
theorem inv_error : (st failed).Inv :=
  ⟨by decide, ⟨by decide, by decide, by decide, by decide⟩, by decide, by decide, rfl, rfl⟩

theorem witness_DecodeOfEncodeIsTheInstruction :
    (Instr.cmdIllegal 4#32).wellFormed = true ∧ (Instr.razwi false 0x24#8 0#32).wellFormed = true ∧
    (Instr.razwi true 0xFF#8 7#32).wellFormed = true ∧ (Instr.wrDin 0xFFFFFFFF#32).wellFormed = true := by decide
theorem witness_StepRunsTheDecodedAccess :
    { State.reset with pending := [.access (encode .cmdStart)] }.pending = .access (encode .cmdStart) :: [] ∧
    Instr.cmdStart.wellFormed = true := by decide
theorem witness_ResetEventSetsEveryField : { st failed with pending := [.reset] }.pending = .reset :: [] := rfl
theorem witness_TransferOfAnotherWidthIsRefused :
    { State.reset with pending := [.otherWidth 8] }.pending = .otherWidth 8 :: [] := rfl
theorem witness_StepWithoutAnEventKeepsTheState : State.reset.pending = [] := rfl
theorem witness_StartLatchesTheDimensions :
    (st failed).block.phase = .error ∧ (st setup11).block.phase = .accept ∧
    (State.reset.block.Resting ∧ ¬ DimsLegal State.reset.config State.reset.block.width State.reset.block.height) ∧
    ((st (done11 redFile)).block.Resting ∧ DimsLegal Config.reference (done11 redFile).width (done11 redFile).height) :=
  ⟨rfl, rfl, ⟨.inl rfl, fun h => absurd h.1 (by decide)⟩, .inr rfl, dims11 _ (by decide)⟩
theorem witness_StartRefusesDimensionsThatWouldWrap :
    Config.reference.ok = true ∧ Block.reset.Resting ∧ Block.reset.width = 0#32 ∧
    (0x40000000 ≤ (0x40000000#32).toNat ∧ 1 ≤ (1#32).toNat) ∧ 0x80000000 ≤ (0x80000000#32).toNat ∧
    { Block.reset with width := 0x3FFFFFFF#32, height := 1#32 }.Resting ∧ Config.reference.maxRaw = 2 ^ 32 - 1 :=
  ⟨by decide, .inl rfl, rfl, by decide, by decide, .inl rfl, rfl⟩
theorem witness_FinishReleasesTheFile :
    (st failed).block.phase = .error ∧ (st (done11 [])).block.Resting ∧
    (setup11.phase = .accept ∧ setup11.inCount ≠ 4 * setup11.wl.toNat * setup11.hl.toNat) ∧
    (full11.phase = .accept ∧ full11.inCount = 4 * full11.wl.toNat * full11.hl.toNat) ∧
    (zlib Config.reference full11.raw).length ≤ 2 ^ 31 - 1 ∧
    (frame full11.wl full11.hl (zlib Config.reference full11.raw)).length = 73 ∧ 73 ≤ Config.reference.outCap ∧
    (frame full11.wl full11.hl (zlib ⟨72, 5, .storedRef⟩ full11.raw)).length = 73 ∧
    (⟨72, 5, .storedRef⟩ : Config).outCap < 73 :=
  ⟨rfl, .inr rfl, by decide, by decide, by decide +kernel, by decide +kernel, by decide, by decide +kernel, by decide⟩
theorem witness_IllegalCommandWordRaisesIllegalCmd :
    (4#32 ∉ [0#32, 1#32, 2#32, 3#32] ∧ 0x00000101#32 ∉ [0#32, 1#32, 2#32, 3#32]) ∧
    (st failed).block.phase = .error ∧ (st (done11 redFile)).block.phase ≠ .error := by decide
theorem witness_DinFeedsOneByte :
    (st failed).block.phase = .error ∧ State.reset.block.Resting ∧
    (full11.phase = .accept ∧ full11.inCount = 4 * full11.wl.toNat * full11.hl.toNat) ∧
    (setup11.phase = .accept ∧ setup11.inCount ≠ 4 * setup11.wl.toNat * setup11.hl.toNat) :=
  ⟨rfl, .inl rfl, by decide, by decide⟩
theorem witness_DinIgnoresTheUpperBits : (0xFFFFFF02#32).toNat % 256 = (0x00000002#32).toNat % 256 := by decide
theorem witness_StatusIsOneOfTenValues :
    State.reset.Inv ∧ (st setup11).Inv ∧ (st full11).Inv ∧ (st (done11 redFile)).Inv ∧ (st (done11 [])).Inv ∧
    (st failed).Inv :=
  ⟨inv_idle, inv_accept, inv_accept_full, inv_done, inv_done_drained, inv_error⟩
theorem witness_DoutPopsTheHead :
    ((done11 redFile).phase = .done ∧ (done11 redFile).outq = 0x89#8 :: redFile.tail) ∧
    ¬ ((done11 []).phase = .done ∧ 0 < (done11 []).outq.length) ∧
    ¬ (setup11.phase = .done ∧ 0 < setup11.outq.length) := by decide
theorem witness_CounterReadsAreExact : (st (done11 redFile)).Inv ∧ (st failed).Inv ∧ (st failed).block.phase ≠ .done :=
  ⟨inv_done, inv_error, by decide⟩
theorem witness_UnmappedAccessesReadZeroAndIgnoreWrites :
    (0x05#8 : Offset).toNat % 4 ≠ 0 ∧ 0x24 ≤ (0x24#8 : Offset).toNat ∧ 0x24 ≤ (0xFC#8 : Offset).toNat ∧
    (0x10#8 : Offset) ∈ [0x00#8, 0x10#8] ∧ (0x20#8 : Offset) ∈ [0x04#8, 0x14#8, 0x18#8, 0x1C#8, 0x20#8] := by decide
theorem witness_PhaseTransitionsFollowTheTable :
    (run .cmdStart State.reset).block.errcode = 3#4 ∧
    (run .cmdStart (st { Block.reset with width := 1#32, height := 1#32 })).block.phase = .accept ∧
    (run .cmdStart (st setup11)).block.errcode = 2#4 ∧ (run .cmdFinish (st full11)).block.phase = .done ∧
    (run .cmdFinish (st setup11)).block.errcode = 4#4 ∧ (run .cmdFinish (st (done11 []))).block.errcode = 2#4 ∧
    (run .cmdAbort (st setup11)).block.phase = .idle ∧ (run (.cmdIllegal 4#32) (st setup11)).block.errcode = 1#4 ∧
    (run (.wrDin 0#32) (st setup11)).block.phase = .accept ∧ (run (.wrDin 0#32) (st full11)).block.errcode = 4#4 ∧
    (run (.wrDin 0#32) (st (done11 []))).block.errcode = 2#4 ∧ (run .cmdStart (st failed)).block.phase = .error := by
  decide +kernel
theorem witness_ErrorEntryIsPrecise :
    exec .cmdFinish State.reset = .next (run .cmdFinish State.reset) ∧ State.reset.block.phase ≠ .error ∧
    (run .cmdFinish State.reset).block.phase = .error := ⟨rfl, by decide, by decide⟩
theorem witness_EachErrorHasExactlyItsCauses :
    State.reset.Inv ∧ State.reset.block.phase ≠ .error ∧
    exec .cmdStart State.reset = .next (run .cmdStart State.reset) ∧ (st full11).Inv ∧
    exec (.wrDin 5#32) (st full11) = .next (run (.wrDin 5#32) (st full11)) :=
  ⟨inv_idle, by decide, rfl, inv_accept_full, rfl⟩
theorem witness_ErrorPhaseIgnoresOtherAccesses :
    (st failed).block.phase = .error ∧ exec .cmdAbort (st failed) = .next (run .cmdAbort (st failed)) ∧
    exec (.wrWidth 7#32) (st failed) = .next (run (.wrWidth 7#32) (st failed)) ∧
    exec (.wrHeight 7#32) (st failed) = .next (run (.wrHeight 7#32) (st failed)) ∧
    exec (.rdDout 0#32) (st failed) = .next (run (.rdDout 0#32) (st failed)) ∧
    exec .cmdStart (st failed) = .next (run .cmdStart (st failed)) := ⟨rfl, rfl, rfl, rfl, rfl, rfl⟩
theorem witness_OnlyAbortOrResetLeavesError :
    step { st failed with pending := [HostEvent.of .cmdAbort] } = .next (run .cmdAbort (st failed)) ∧
    (run .cmdAbort (st failed)).block.phase ≠ .error ∧
    step { st failed with pending := [.reset] } = .next (State.applyReset (st failed)) ∧
    (State.applyReset (st failed)).block.phase ≠ .error := ⟨rfl, by decide, rfl, by decide⟩
theorem witness_FieldsChangeOnlyByTheirWriters :
    exec (.rdStatus 0#32) (st setup11) = .next (run (.rdStatus 0#32) (st setup11)) := rfl
theorem witness_QuietAccessesRepeat :
    exec (.rdOutLevel 0#32) (st (done11 redFile)) = .next (run (.rdOutLevel 0#32) (st (done11 redFile))) ∧
    exec (.wrWidth 3#32) (st setup11) = .next (run (.wrWidth 3#32) (st setup11)) := ⟨rfl, rfl⟩
theorem witness_DoutGivesNoByteOutsideDone :
    setup11.phase ≠ .done ∧ (done11 [0x00#8]).phase = .done ∧ (done11 [0x00#8]).outq = 0x00#8 :: [] := by decide
theorem witness_StepKeepsThePhaseInvariants :
    (st full11).Inv ∧ step { st full11 with pending := [HostEvent.of .cmdFinish] } = .next (run .cmdFinish (st full11)) :=
  ⟨inv_accept_full, rfl⟩
theorem witness_StepKeepsErrcodeNonzeroExactlyInError :
    (failed.errcode.toNat ≤ 5 ∧ (failed.errcode ≠ 0#4 ↔ failed.phase = .error)) ∧
    step { st failed with pending := [HostEvent.of .cmdNop] } = .next (st failed) := ⟨by decide, rfl⟩
theorem witness_ResetMeetsThePhaseInvariants : (⟨0, 5, .chip⟩ : Config).ok = true := by decide
/-- For RawStreamIsTheFilteredRows, RawStreamLength, RawPrefixBuildsTheRawStream and UnfilterRecoversTheBuffer. -/
theorem witness_rawStream_statements : 1 ≤ 1 ∧ redPixel.length = 4 * 1 * 1 ∧ 0 < 1 := by decide
theorem witness_CanonicalDecodingFindsTheCodesSymbol :
    (∀ l ∈ fixedLitLens, l ≤ 15) ∧ (∀ l ∈ [15, 15], l ≤ 15) ∧
    symbolOf fixedLitLens 7 0 = some 256 ∧ codeOf fixedLitLens 256 = 0 := by
  decide +kernel
/-- The loops of R202 worked by hand for the lengths 3, 3, 3, 3, 3, 2, 4, 4. -/
theorem test_canonical_codes :
    canonicalCodes [3, 3, 3, 3, 3, 2, 4, 4] =
      [some 2, some 3, some 4, some 5, some 6, some 0, some 14, some 15] := by decide
theorem witness_FixedCodesAreTheTables :
    143 ≤ 143 ∧ (144 ≤ 255 ∧ 255 ≤ 255) ∧ (256 ≤ 279 ∧ 279 ≤ 279) ∧ (280 ≤ 287 ∧ 287 ≤ 287) ∧ 31 ≤ 31 := by decide
theorem witness_StoredRefSizes : Config.reference.engine = .storedRef := rfl
/-- For BlockEngineIsAdmissible and ZlibStreamDecodesToTheRawStream. -/
theorem witness_engine_statements : redPixel.length ≤ Config.offered.maxRaw := by decide
theorem witness_ChunkParsesBack : tagIend.length = 4 ∧ ([] : List Byte).length ≤ 2 ^ 31 - 1 := by decide
theorem witness_PngFileDecodesToTheImage :
    Config.reference.ok = true ∧ DimsLegal Config.reference 1#32 1#32 ∧
    redPixel.length = 4 * (1#32).toNat * (1#32).toNat ∧
    (zlib Config.reference (rawStream (1#32).toNat (1#32).toNat redPixel)).length ≤ 2 ^ 31 - 1 :=
  ⟨by decide, dims11 _ (by decide), by decide, by decide +kernel⟩
theorem witness_FeedingBuildsTheRawStream :
    setup11.phase = .accept ∧ setup11.inCount = 0 ∧ setup11.raw = [] ∧
    [0xFF#32, 0#32].length ≤ 4 * setup11.wl.toNat * setup11.hl.toNat ∧ [0xFF#32, 0#32] ≠ [] := by decide
theorem witness_DrainingReadsTheQueueInOrder : (st (done11 redFile)).block.phase = .done := rfl
theorem witness_HostProtocolDeliversTheFile :
    Config.reference.ok = true ∧ Block.reset.Resting ∧ DimsLegal Config.reference 1#32 1#32 ∧
    [0xFF#32, 0#32, 0#32, 0x1FF#32].length = 4 * (1#32).toNat * (1#32).toNat ∧
    [0xFF#32, 0#32, 0#32, 0x1FF#32].map dinByte = redPixel ∧
    (pngEncode Config.reference 1#32 1#32 redPixel).length = 73 ∧ 73 ≤ Config.reference.outCap :=
  ⟨by decide, .inl rfl, dims11 _ (by decide), by decide, by decide, by decide +kernel, by decide⟩

end Sys2Proof.Tests
end

section
/-! PROOFS. The null filter of the block, byte by byte and at once. -/

namespace Sys2Proof.Machine

/-! ## The null filter, byte by byte and row by row (41_null_filter.md R173 to R177) -/

/-- The filter only appends to the stream it has built. -/
theorem filterByte_eq_append (raw : List Byte) (i w : Nat) (b : Byte) :
    filterByte raw i w b = raw ++ filterByte [] i w b := by
  unfold filterByte
  split <;> rfl

theorem filterFrom_append (w i : Nat) (raw xs ys : List Byte) :
    filterFrom w i raw (xs ++ ys) = filterFrom w (i + xs.length) (filterFrom w i raw xs) ys := by
  induction xs generalizing i raw with
  | nil => rfl
  | cons x xs ih => simp [filterFrom, ih, Nat.add_assoc, Nat.add_comm 1]

theorem filterFrom_eq_append (w i : Nat) (raw bs : List Byte) :
    filterFrom w i raw bs = raw ++ filterFrom w i [] bs := by
  induction bs generalizing i raw with
  | nil => simp [filterFrom]
  | cons b bs ih =>
    simp only [filterFrom]
    rw [ih, ih _ (filterByte [] i w b), filterByte_eq_append, List.append_assoc]

/-- The filter byte's place depends on the buffer index modulo the row length only. -/
theorem filterFrom_add_rowBytes (w i : Nat) (raw bs : List Byte) :
    filterFrom w (i + rowBytes w) raw bs = filterFrom w i raw bs := by
  induction bs generalizing i raw with
  | nil => rfl
  | cons b bs ih =>
    have hstep : filterByte raw (i + rowBytes w) w b = filterByte raw i w b := by
      simp only [filterByte, Nat.add_mod_right]
    simp only [filterFrom, hstep, Nat.add_right_comm i _ 1, ih]

/-- Behind its first byte a row passes the filter unchanged. -/
theorem filterFrom_within_row (w i : Nat) (raw bs : List Byte) (hi : 0 < i) (hlen : i + bs.length ≤ rowBytes w) :
    filterFrom w i raw bs = raw ++ bs := by
  induction bs generalizing i raw with
  | nil => simp [filterFrom]
  | cons b bs ih =>
    rw [List.length_cons] at hlen
    have hmod : i % rowBytes w ≠ 0 := by rw [Nat.mod_eq_of_lt] <;> omega
    have hstep : filterByte raw i w b = raw ++ [b] := if_neg hmod
    rw [filterFrom, ih _ _ (by omega) (by omega), hstep, List.append_assoc, List.singleton_append]

theorem rawPrefix_row (w : Nat) (row : List Byte) (hw : 1 ≤ w) (hlen : row.length = rowBytes w) :
    rawPrefix w row = 0x00#8 :: row := by
  cases row with
  | nil => simp at hlen; omega
  | cons b bs =>
    rw [List.length_cons] at hlen
    have hstep : filterByte [] 0 w b = [0x00#8, b] := if_pos (Nat.zero_mod _)
    rw [rawPrefix, filterFrom, filterFrom_within_row _ _ _ _ (by omega) (by omega), hstep]
    rfl

/-- After a whole row the filter starts afresh. -/
theorem rawPrefix_row_append (w : Nat) (row bs : List Byte) (hw : 1 ≤ w) (hlen : row.length = rowBytes w) :
    rawPrefix w (row ++ bs) = 0x00#8 :: (row ++ rawPrefix w bs) := by
  calc rawPrefix w (row ++ bs)
      = filterFrom w (0 + rowBytes w) (rawPrefix w row) bs := by rw [rawPrefix, filterFrom_append, hlen, rawPrefix]
    _ = rawPrefix w row ++ rawPrefix w bs := by rw [filterFrom_add_rowBytes, filterFrom_eq_append]; rfl
    _ = 0x00#8 :: (row ++ rawPrefix w bs) := by rw [rawPrefix_row w row hw hlen, List.cons_append]

/-- The stream built byte by byte is the one built at once (R177). -/
theorem rawPrefix_eq_rawStream (w h : Nat) (buf : List Byte) (hw : 1 ≤ w) (hlen : buf.length = 4 * w * h) :
    rawPrefix w buf = rawStream w h buf := by
  induction h generalizing buf with
  | zero =>
    obtain rfl : buf = [] := List.length_eq_zero_iff.mp hlen
    rfl
  | succ h ih =>
    have hsize : buf.length = 4 * w * h + rowBytes w := hlen
    have hrow : (buf.take (rowBytes w)).length = rowBytes w := by rw [List.length_take]; omega
    have hrest : (buf.drop (rowBytes w)).length = 4 * w * h := by rw [List.length_drop]; omega
    calc rawPrefix w buf
        = rawPrefix w (buf.take (rowBytes w) ++ buf.drop (rowBytes w)) := by rw [List.take_append_drop]
      _ = rawStream w (h + 1) buf := by rw [rawPrefix_row_append w _ _ hw hrow, ih _ hrest, rawStream]

/-- One more byte of the stream (R174). -/
theorem rawPrefix_concat (w : Nat) (bs : List Byte) (b : Byte) :
    rawPrefix w (bs ++ [b]) = filterByte (rawPrefix w bs) bs.length w b := by
  simp [rawPrefix, filterFrom_append, filterFrom]

theorem length_filterByte (raw : List Byte) (i w : Nat) (b : Byte) :
    (filterByte raw i w b).length = raw.length + 1 + if rowBytes w ∣ i then 1 else 0 := by
  simp only [filterByte, Nat.dvd_iff_mod_eq_zero]
  split <;> simp

theorem rowBytes_pos {w : Nat} (hw : 1 ≤ w) : 0 < rowBytes w := Nat.mul_pos (by decide) hw

/-- Counting the rows begun: a byte begins a row where the row length divides its index. -/
theorem rowsBegun_succ (n k : Nat) (hk : 0 < k) :
    (n + 1 + k - 1) / k = (n + k - 1) / k + if k ∣ n then 1 else 0 := by
  have hsucc : n + 1 + k - 1 = (n + k - 1) + 1 := by omega
  have hend : n + k - 1 + 1 = n + k := by omega
  rw [hsucc, Nat.succ_div]
  simp only [hend, Nat.dvd_add_self_right]

/-- After `n` bytes the stream has a filter byte for each row begun (R177). -/
theorem length_rawPrefix (w : Nat) (bs : List Byte) (hw : 1 ≤ w) :
    (rawPrefix w bs).length = bs.length + (bs.length + rowBytes w - 1) / rowBytes w := by
  have hpos := rowBytes_pos hw
  induction bs using List.reverseRecOn with
  | nil => simp [rawPrefix, filterFrom, Nat.div_eq_of_lt (Nat.sub_one_lt_of_lt hpos)]
  | append_singleton bs b ih =>
    rw [rawPrefix_concat, length_filterByte, ih, List.length_append, List.length_singleton, rowsBegun_succ _ _ hpos]
    omega

/-- The stream of at most `h` rows of bytes is no longer than `h` filtered rows. -/
theorem length_rawPrefix_le (w h : Nat) (bs : List Byte) (hw : 1 ≤ w) (hlen : bs.length ≤ 4 * w * h) :
    (rawPrefix w bs).length ≤ h * (4 * w + 1) := by
  have hrows : (bs.length + rowBytes w - 1) / rowBytes w ≤ h := by
    have hfit : bs.length ≤ rowBytes w * h := hlen
    rw [Nat.div_le_iff_le_mul_add_pred (rowBytes_pos hw)]
    omega
  calc (rawPrefix w bs).length
      = bs.length + (bs.length + rowBytes w - 1) / rowBytes w := length_rawPrefix w bs hw
    _ ≤ 4 * w * h + h := Nat.add_le_add hlen hrows
    _ = h * (4 * w + 1) := by ring

end Sys2Proof.Machine
end

section
/-! PROOFS. One access and one step on the block's record, the record's invariants, and its frame. -/

namespace Sys2Proof.Machine

/-! ## What an access and a step do to the block's record -/

/-- The block's record after an instruction: `exec` without the read data. -/
def Block.after (c : Config) (i : Instr) (b : Block) : Block :=
  match i with
  | .cmdStart => b.start c
  | .cmdFinish => b.finish c
  | .cmdAbort => b.abort
  | .cmdIllegal _ => b.illegalCommand
  | .wrWidth data => { b with width := data }
  | .wrHeight data => { b with height := data }
  | .wrDin data => b.feed (dinByte data)
  | .rdDout _ => b.readDout.2
  | .cmdNop | .rdStatus _ | .rdWidth _ | .rdHeight _ | .rdInCount _ | .rdOutLevel _ | .rdFileLen _ | .razwi _ _ _ => b

/-- Every access completes: it acts on the block's record and sets the read data, and leaves the rest of the state. -/
theorem exec_eq_next (i : Instr) (s : State) :
    ∃ r, exec i s = .next { s with block := s.block.after s.config i, rdata := r } := by
  cases i with
  | razwi write _ _ => cases write <;> exact ⟨_, rfl⟩
  | _ => exact ⟨_, rfl⟩

theorem exec_block {i : Instr} {s t : State} (h : exec i s = .next t) : t.block = s.block.after s.config i := by
  obtain ⟨r, hr⟩ := exec_eq_next i s
  cases hr.symm.trans h
  rfl

theorem exec_config {i : Instr} {s t : State} (h : exec i s = .next t) : t.config = s.config := by
  obtain ⟨r, hr⟩ := exec_eq_next i s
  cases hr.symm.trans h
  rfl

/-- What a step that answers a next state has done: nothing, an access or the reset. -/
theorem step_cases {s t : State} (h : step s = .next t) :
    (s.pending = [] ∧ t = s) ∨
    (∃ d rest, s.pending = .access d :: rest ∧ exec (decode d) { s with pending := rest } = .next t) ∨
    (∃ rest, s.pending = .reset :: rest ∧ t = State.applyReset { s with pending := rest }) := by
  unfold step at h
  split at h
  case h_1 hp => cases h; exact .inl ⟨hp, rfl⟩
  case h_2 d rest hp => exact .inr (.inl ⟨d, rest, hp, h⟩)
  case h_3 rest hp => cases h; exact .inr (.inr ⟨rest, hp, rfl⟩)
  case h_4 => cases h

/-- No step changes the parameters (00_scope.md R6). -/
theorem step_config {s t : State} (h : step s = .next t) : t.config = s.config := by
  obtain ⟨_, rfl⟩ | ⟨d, rest, _, hx⟩ | ⟨rest, _, rfl⟩ := step_cases h
  · rfl
  · rw [exec_config hx]
  · rfl

/-! ## The changes of the record

Whatever the instruction, it changes the record in one of nine ways; an invariant is checked against each way once. -/

/-- The changes that an instruction can make to the record `b` of a block of parameters `c`, with what an invariant may
rely on (`Block.after_change`). -/
inductive Block.Change (c : Config) (b : Block) : Block → Prop where
  /-- Nothing changes: the reads but DOUT, NOP, RAZWI, and what ERROR ignores (60_exceptions.md R308). -/
  | none : b.Change c b
  /-- The error entry (60_exceptions.md R300). -/
  | raise (e : ErrorCode) : b.Change c (b.raise e)
  /-- ABORT (40_host_commands.md R124). -/
  | abort : b.Change c b.abort
  /-- A WIDTH write (R126). -/
  | width (v : Word) : b.Change c { b with width := v }
  /-- A HEIGHT write (R127). -/
  | height (v : Word) : b.Change c { b with height := v }
  /-- A START that is accepted (R122). -/
  | start (hdims : dimsOk c.maxRaw b.width.toNat b.height.toNat = true) :
    b.Change c { b with wl := b.width, hl := b.height, inCount := 0, raw := [], outq := [], fileLen := 0,
                        errcode := 0#4, phase := .accept }
  /-- A DIN byte that is accepted (R128). -/
  | feed (x : Byte) (hphase : b.phase = .accept) (hcount : b.inCount ≠ b.bufferBytes) :
    b.Change c { b with raw := filterByte b.raw b.inCount b.wl.toNat x, inCount := b.inCount + 1 }
  /-- A FINISH that releases the file (R123). -/
  | finish (hphase : b.phase = .accept) (hcount : b.inCount = b.bufferBytes) (hfits : b.overflows c = false) :
    b.Change c { b with outq := b.file c, fileLen := (b.file c).length, phase := .done }
  /-- A DOUT read that pops the head (R132). -/
  | pop (x : Byte) (rest : List Byte) (hphase : b.phase = .done) (hqueue : b.outq = x :: rest) :
    b.Change c { b with outq := rest }

namespace Block

variable (c : Config) (b : Block)

theorem start_change : b.Change c (b.start c) := by
  obtain ⟨_, h⟩ | ⟨_, h⟩ | ⟨_, _, h⟩ | ⟨_, hdims, h⟩ := b.start_cases c <;> rw [h]
  · exact .none
  · exact .raise _
  · exact .raise _
  · exact .start hdims

theorem finish_change : b.Change c (b.finish c) := by
  obtain ⟨_, h⟩ | ⟨_, h⟩ | ⟨_, _, h⟩ | ⟨_, _, _, h⟩ | ⟨hphase, hcount, hfits, h⟩ := b.finish_cases c <;> rw [h]
  · exact .none
  · exact .raise _
  · exact .raise _
  · exact .raise _
  · exact .finish hphase hcount hfits

theorem illegalCommand_change : b.Change c b.illegalCommand := by
  obtain ⟨_, h⟩ | ⟨_, h⟩ := b.illegalCommand_cases <;> rw [h]
  · exact .none
  · exact .raise _

theorem feed_change (x : Byte) : b.Change c (b.feed x) := by
  obtain ⟨_, h⟩ | ⟨_, h⟩ | ⟨_, _, h⟩ | ⟨hphase, hcount, h⟩ := b.feed_cases x <;> rw [h]
  · exact .none
  · exact .raise _
  · exact .raise _
  · exact .feed x hphase hcount

theorem readDout_change : b.Change c b.readDout.2 := by
  obtain ⟨x, rest, hphase, hqueue, h⟩ | ⟨_, h⟩ := b.readDout_cases <;> rw [h]
  · exact .pop x rest hphase hqueue
  · exact .none

theorem after_change (i : Instr) : b.Change c (b.after c i) := by
  cases i with
  | cmdStart => exact start_change c b
  | cmdFinish => exact finish_change c b
  | cmdAbort => exact .abort
  | cmdIllegal _ => exact illegalCommand_change c b
  | wrWidth data => exact .width data
  | wrHeight data => exact .height data
  | wrDin data => exact feed_change c b (dinByte data)
  | rdDout _ => exact readDout_change c b
  | _ => exact .none

end Block

/-- A property of the record that reset has and that every change keeps is kept by every step. -/
theorem step_keeps {P : Block → Prop} {s t : State} (hreset : P Block.reset)
    (hchange : ∀ b, s.block.Change s.config b → P s.block → P b) (h : step s = .next t) (hs : P s.block) :
    P t.block := by
  obtain ⟨_, rfl⟩ | ⟨d, rest, _, hx⟩ | ⟨rest, _, rfl⟩ := step_cases h
  · exact hs
  · rw [exec_block hx]
    exact hchange _ (s.block.after_change s.config (decode d)) hs
  · exact hreset

/-! ## The error code (10_state.md R33) -/

/-- The code is at most 5, and nonzero exactly in ERROR. -/
def Block.CodeMarksError (b : Block) : Prop :=
  b.errcode.toNat ≤ 5 ∧ (b.errcode ≠ 0#4 ↔ b.phase = .error)

theorem Block.codeMarksError_of_ne_error {b : Block} (hcode : b.errcode = 0#4) (hphase : b.phase ≠ .error) :
    b.CodeMarksError := by
  simp [CodeMarksError, hcode, hphase]

theorem Block.raise_codeMarksError (e : ErrorCode) (b : Block) : (b.raise e).CodeMarksError := by
  have hne : e.code ≠ 0#4 := by cases e <;> decide
  exact ⟨e.code_range.2, iff_of_true hne rfl⟩

/-- Outside ERROR the code is 0. -/
theorem Block.CodeMarksError.errcode_eq_zero {b : Block} (hb : b.CodeMarksError) (hphase : b.phase ≠ .error) :
    b.errcode = 0#4 :=
  not_not.mp fun hne => hphase (hb.2.mp hne)

theorem Block.Change.codeMarksError {c : Config} {b b' : Block} (h : b.Change c b') (hb : b.CodeMarksError) :
    b'.CodeMarksError := by
  cases h with
  | raise e => exact raise_codeMarksError e b
  | abort => exact codeMarksError_of_ne_error rfl nofun
  | start => exact codeMarksError_of_ne_error rfl nofun
  | finish hphase => exact codeMarksError_of_ne_error (hb.errcode_eq_zero (by simp [hphase])) nofun
  | none | width | height | feed | pop => exact hb

/-- Settles O39: the error entry sets phase and a code from 1 to 5 together, and the other phases are entered with
code 0. -/
theorem stepKeepsErrcodeNonzeroExactlyInError : Obligations.StepKeepsErrcodeNonzeroExactlyInError :=
  fun _ _ => step_keeps (P := Block.CodeMarksError) (Block.codeMarksError_of_ne_error rfl nofun)
    fun _ h => h.codeMarksError

/-! ## The invariant of the record (10_state.md R41, R42) -/

/-- The block's part of `State.Inv`. -/
def Block.Inv (c : Config) (b : Block) : Prop := b.Bounds c ∧ b.PhaseInv c

theorem State.inv_iff (s : State) : s.Inv ↔ s.config.ok = true ∧ s.block.Inv s.config := Iff.rfl

theorem config_ok_iff (c : Config) :
    c.ok = true ↔ c.outCap ≤ 2 ^ 32 - 1 ∧ 5 ≤ c.maxRaw ∧ c.maxRaw ≤ 2 ^ 32 - 1 := by
  simp [Config.ok, and_assoc]

/-- The dimension check of START is `DIMS_OK` of 40_host_commands.md R136. -/
theorem dimsOk_iff_dimsLegal (c : Config) (w h : Word) : dimsOk c.maxRaw w.toNat h.toNat = true ↔ DimsLegal c w h :=
  dimsOk_iff _ _ _

namespace Block

variable {c : Config} {b : Block}

/-- A record without bytes, file or code, as reset and ABORT leave it. -/
theorem inv_of_idle (hphase : b.phase = .idle) (hcode : b.errcode = 0#4) (hcount : b.inCount = 0) (hraw : b.raw = [])
    (hqueue : b.outq = []) (hlen : b.fileLen = 0) : b.Inv c := by
  simp [Inv, Bounds, PhaseInv, hphase, hcode, hcount, hraw, hqueue, hlen]

theorem reset_inv : Block.reset.Inv c := inv_of_idle rfl rfl rfl rfl rfl rfl

theorem abort_inv : b.abort.Inv c := inv_of_idle rfl rfl rfl rfl rfl rfl

theorem raise_inv (e : ErrorCode) (hb : b.Inv c) : (b.raise e).Inv c := by
  obtain ⟨⟨hcount, hraw, _, _⟩, _⟩ := hb
  exact ⟨⟨hcount, hraw, Nat.zero_le _, Nat.zero_le _⟩, e.code_range.1, e.code_range.2, rfl, rfl⟩

theorem phaseInv_of_accept (hphase : b.phase = .accept) :
    b.PhaseInv c ↔
      b.outq = [] ∧ b.fileLen = 0 ∧ b.errcode = 0#4 ∧ DimsLegal c b.wl b.hl ∧ b.inCount ≤ b.bufferBytes ∧
      ∃ bs : List Byte, bs.length = b.inCount ∧ b.raw = rawPrefix b.wl.toNat bs := by
  rw [PhaseInv, hphase]

theorem phaseInv_of_done (hphase : b.phase = .done) :
    b.PhaseInv c ↔ b.errcode = 0#4 ∧ b.inCount = b.bufferBytes ∧
      ∃ bs : List Byte, bs.length = b.inCount ∧ b.raw = rawPrefix b.wl.toNat bs ∧
        b.fileLen = (pngEncode c b.wl b.hl bs).length ∧ b.outq <:+ pngEncode c b.wl b.hl bs := by
  rw [PhaseInv, hphase]

/-- A buffer of legal dimensions, and its filtered form, fit the capacities. -/
theorem bounds_of_accepted (hok : c.ok = true) (hdims : DimsLegal c b.wl b.hl) {bs : List Byte}
    (hlen : bs.length ≤ b.bufferBytes) :
    bs.length < 2 ^ 32 ∧ (rawPrefix b.wl.toNat bs).length ≤ c.maxRaw := by
  obtain ⟨hw, _, _, _, hcap⟩ := hdims
  obtain ⟨_, _, hmax⟩ := (config_ok_iff c).mp hok
  have hraw := length_rawPrefix_le b.wl.toNat b.hl.toNat bs hw hlen
  have hbytes : bs.length ≤ (rawPrefix b.wl.toNat bs).length := by
    rw [length_rawPrefix _ _ hw]
    exact Nat.le_add_right _ _
  omega

/-- The file of a whole buffer is PNG_ENCODE of the accepted bytes (44_chunk_framer.md R279, 41_null_filter.md R177). -/
theorem file_eq_pngEncode {bs : List Byte} (hw : 1 ≤ b.wl.toNat) (hlen : bs.length = b.bufferBytes)
    (hraw : b.raw = rawPrefix b.wl.toNat bs) : b.file c = pngEncode c b.wl b.hl bs := by
  rw [file, pngEncode, hraw, rawPrefix_eq_rawStream _ _ _ hw hlen]

theorem start_inv (hdims : dimsOk c.maxRaw b.width.toNat b.height.toNat = true) :
    Inv c { b with wl := b.width, hl := b.height, inCount := 0, raw := [], outq := [], fileLen := 0, errcode := 0#4,
                   phase := .accept } :=
  ⟨⟨Nat.two_pow_pos 32, Nat.zero_le _, Nat.zero_le _, Nat.zero_le _⟩,
    rfl, rfl, rfl, (dimsOk_iff_dimsLegal _ _ _).mp hdims, Nat.zero_le _, [], rfl, rfl⟩

theorem feed_inv (x : Byte) (hok : c.ok = true) (hphase : b.phase = .accept) (hcount : b.inCount ≠ b.bufferBytes)
    (hb : b.Inv c) :
    Inv c { b with raw := filterByte b.raw b.inCount b.wl.toNat x, inCount := b.inCount + 1 } := by
  obtain ⟨⟨_, _, hqueue, hfile⟩, hb⟩ := hb
  obtain ⟨houtq, hfileLen, hcode, hdims, hle, bs, hlen, hraw⟩ := (phaseInv_of_accept hphase).mp hb
  have hlen' : (bs ++ [x]).length = b.inCount + 1 := by rw [List.length_append, hlen, List.length_singleton]
  have hraw' : filterByte b.raw b.inCount b.wl.toNat x = rawPrefix b.wl.toNat (bs ++ [x]) := by
    rw [rawPrefix_concat, hraw, hlen]
  have hle' : b.inCount + 1 ≤ b.bufferBytes := by omega
  obtain ⟨hfit, hfitRaw⟩ := bounds_of_accepted hok hdims (hlen'.trans_le hle')
  rw [hlen'] at hfit
  rw [← hraw'] at hfitRaw
  exact ⟨⟨hfit, hfitRaw, hqueue, hfile⟩, (phaseInv_of_accept (by exact hphase)).mpr
    ⟨houtq, hfileLen, hcode, hdims, hle', bs ++ [x], hlen', hraw'⟩⟩

theorem finish_inv (hphase : b.phase = .accept) (hcount : b.inCount = b.bufferBytes) (hfits : b.overflows c = false)
    (hb : b.Inv c) : Inv c { b with outq := b.file c, fileLen := (b.file c).length, phase := .done } := by
  obtain ⟨⟨hin, hrawLen, _, _⟩, hb⟩ := hb
  obtain ⟨_, _, hcode, ⟨hw, _⟩, _, bs, hlen, hraw⟩ := (phaseInv_of_accept hphase).mp hb
  have hcap : (b.file c).length ≤ c.outCap := by
    by_contra hlong
    simp [(overflows_iff c b).mpr (.inr (Nat.lt_of_not_le hlong))] at hfits
  have hfile : b.file c = pngEncode c b.wl b.hl bs := file_eq_pngEncode hw (hlen.trans hcount) hraw
  exact ⟨⟨hin, hrawLen, hcap, hcap⟩, hcode, hcount, bs, hlen, hraw,
    congrArg List.length hfile, hfile ▸ List.suffix_rfl⟩

theorem pop_inv {x : Byte} {rest : List Byte} (hphase : b.phase = .done) (hqueue : b.outq = x :: rest)
    (hb : b.Inv c) : Inv c { b with outq := rest } := by
  obtain ⟨⟨hin, hrawLen, hcap, hfile⟩, hb⟩ := hb
  obtain ⟨hcode, hcount, bs, hlen, hraw, hfileLen, hsuffix⟩ := (phaseInv_of_done hphase).mp hb
  have hrest : rest <:+ b.outq := hqueue ▸ List.suffix_cons x rest
  exact ⟨⟨hin, hrawLen, hrest.length_le.trans hcap, hfile⟩, (phaseInv_of_done (by exact hphase)).mpr
    ⟨hcode, hcount, bs, hlen, hraw, hfileLen, hrest.trans hsuffix⟩⟩

theorem Change.inv {b' : Block} (hok : c.ok = true) (h : b.Change c b') (hb : b.Inv c) : b'.Inv c := by
  cases h with
  | raise e => exact raise_inv e hb
  | abort => exact abort_inv
  | start hdims => exact start_inv hdims
  | feed x hphase hcount => exact feed_inv x hok hphase hcount hb
  | finish hphase hcount hfits => exact finish_inv hphase hcount hfits hb
  | pop x rest hphase hqueue => exact pop_inv hphase hqueue hb
  | none | width | height => exact hb

end Block

/-- Settles O38: each way in which an instruction changes the record keeps its invariant (`Block.Change.inv`), and no
step changes the parameters. -/
theorem stepKeepsThePhaseInvariants : Obligations.StepKeepsThePhaseInvariants := by
  intro s t hs h
  obtain ⟨hok, hb⟩ := (State.inv_iff s).mp hs
  rw [State.inv_iff, step_config h]
  exact ⟨hok, step_keeps (P := Block.Inv s.config) Block.reset_inv (fun _ hchange => hchange.inv hok) h hb⟩

/-- Settles O37: the reset record has no bytes, no file and no code, whatever the parameters. -/
theorem resetMeetsThePhaseInvariants : Obligations.ResetMeetsThePhaseInvariants := by
  have hreset : ∀ c : Config, c.ok = true → (State.resetWith c).Inv :=
    fun c hok => (State.inv_iff _).mpr ⟨hok, Block.reset_inv⟩
  exact ⟨hreset, hreset Config.offered (by decide)⟩

/-! ## Frames -/

@[simp] theorem Block.start_keeps (c : Config) (b : Block) :
    (b.start c).width = b.width ∧ (b.start c).height = b.height := by
  obtain ⟨_, h⟩ | ⟨_, h⟩ | ⟨_, _, h⟩ | ⟨_, _, h⟩ := b.start_cases c <;> simp [h]

@[simp] theorem Block.finish_keeps (c : Config) (b : Block) :
    (b.finish c).width = b.width ∧ (b.finish c).height = b.height ∧ (b.finish c).wl = b.wl ∧
    (b.finish c).hl = b.hl ∧ (b.finish c).inCount = b.inCount ∧ (b.finish c).raw = b.raw := by
  obtain ⟨_, h⟩ | ⟨_, h⟩ | ⟨_, _, h⟩ | ⟨_, _, _, h⟩ | ⟨_, _, _, h⟩ := b.finish_cases c <;> simp [h]

@[simp] theorem Block.illegalCommand_keeps (b : Block) :
    b.illegalCommand.width = b.width ∧ b.illegalCommand.height = b.height ∧ b.illegalCommand.wl = b.wl ∧
    b.illegalCommand.hl = b.hl ∧ b.illegalCommand.inCount = b.inCount ∧ b.illegalCommand.raw = b.raw := by
  obtain ⟨_, h⟩ | ⟨_, h⟩ := b.illegalCommand_cases <;> simp [h]

@[simp] theorem Block.feed_keeps (x : Byte) (b : Block) :
    (b.feed x).width = b.width ∧ (b.feed x).height = b.height ∧ (b.feed x).wl = b.wl ∧ (b.feed x).hl = b.hl := by
  obtain ⟨_, h⟩ | ⟨_, h⟩ | ⟨_, _, h⟩ | ⟨_, _, h⟩ := b.feed_cases x <;> simp [h]

/-- A DOUT read changes the output queue and nothing else. -/
theorem Block.readDout_block (b : Block) : b.readDout.2 = { b with outq := b.readDout.2.outq } := by
  obtain ⟨x, rest, _, _, h⟩ | ⟨_, h⟩ := b.readDout_cases <;> rw [h]

/-- Settles O34: the record after the instruction, instruction by instruction, by the fields each operation keeps. -/
theorem fieldsChangeOnlyByTheirWriters : Obligations.FieldsChangeOnlyByTheirWriters := by
  intro i s t h
  rw [exec_block h]
  cases i with
  | rdDout _ =>
    rw [Block.after, Block.readDout_block]
    simp
  | _ => simp [Block.after]

end Sys2Proof.Machine
end

section
/-! PROOFS. The STATUS word and the reads at reset. -/

namespace Sys2Proof.Machine

/-! ## The fields of STATUS (10_state.md R25) -/

namespace Block

variable (b : Block)

/-- Each bit of STATUS is a bit of one field, as the fields do not overlap; the others are reserved. -/
theorem getLsbD_statusWord {i : Nat} (hi : i < 32) :
    b.statusWord.getLsbD i =
      if i < 2 then b.phase.code.getLsbD i
      else if i = 2 then b.outValid
      else if i = 3 then b.errFlag
      else if i = 4 then b.inFull
      else decide (8 ≤ i) && b.errcode.getLsbD (i - 8) := by
  have hphase : 2 ≤ i → b.phase.code.getLsbD i = false := BitVec.getLsbD_of_ge _ _
  simp only [statusWord, BitVec.getLsbD_or, BitVec.getLsbD_shiftLeft, BitVec.getLsbD_setWidth, BitVec.getLsbD_ofBool]
  grind

theorem statusWord_phase : b.statusWord.extractLsb' 0 2 = b.phase.code := by
  apply BitVec.eq_of_getLsbD_eq
  intro i hi
  rw [BitVec.getLsbD_extractLsb', getLsbD_statusWord b (by omega)]
  simp [hi]

theorem statusWord_outValid : b.statusWord.getLsbD 2 = true ↔ b.phase = .done ∧ 0 < b.outq.length := by
  rw [getLsbD_statusWord b (by decide)]
  simp [outValid]

theorem statusWord_errFlag : b.statusWord.getLsbD 3 = true ↔ b.phase = .error := by
  rw [getLsbD_statusWord b (by decide)]
  simp [errFlag]

theorem statusWord_inFull : b.statusWord.getLsbD 4 = true ↔ b.phase = .accept ∧ b.inCount = b.bufferBytes := by
  rw [getLsbD_statusWord b (by decide)]
  simp [inFull]

theorem statusWord_reserved_5_to_7 : b.statusWord.extractLsb' 5 3 = 0#3 := by
  apply BitVec.eq_of_getLsbD_eq
  intro i hi
  have hfields : ¬ 5 + i < 2 ∧ 5 + i ≠ 2 ∧ 5 + i ≠ 3 ∧ 5 + i ≠ 4 ∧ ¬ 8 ≤ 5 + i := by omega
  rw [BitVec.getLsbD_extractLsb', getLsbD_statusWord b (by omega)]
  simp [hfields]

theorem statusWord_errcode : b.statusWord.extractLsb' 8 4 = b.errcode := by
  apply BitVec.eq_of_getLsbD_eq
  intro i hi
  have hfields : ¬ 8 + i < 2 ∧ 8 + i ≠ 2 ∧ 8 + i ≠ 3 ∧ 8 + i ≠ 4 := by omega
  rw [BitVec.getLsbD_extractLsb', getLsbD_statusWord b (by omega)]
  simp [hfields, hi]

theorem statusWord_reserved_12_to_31 : b.statusWord.extractLsb' 12 20 = 0#20 := by
  apply BitVec.eq_of_getLsbD_eq
  intro i hi
  have hfields : ¬ 12 + i < 2 ∧ 12 + i ≠ 2 ∧ 12 + i ≠ 3 ∧ 12 + i ≠ 4 := by omega
  have hcode : b.errcode.getLsbD (12 + i - 8) = false := BitVec.getLsbD_of_ge _ _ (by omega)
  rw [BitVec.getLsbD_extractLsb', getLsbD_statusWord b (by omega)]
  simp [hfields, hcode]

end Block

/-- Settles O22: the word has its fields one by one, and a STATUS read gives it. -/
theorem statusHasItsFields : Obligations.StatusHasItsFields := by
  intro s ignored
  refine ⟨s.block.statusWord, exec_rdStatus s ignored, ?_, s.block.statusWord_outValid, s.block.statusWord_errFlag,
    s.block.statusWord_inFull, s.block.statusWord_reserved_5_to_7, s.block.statusWord_errcode,
    s.block.statusWord_reserved_12_to_31⟩
  rw [s.block.statusWord_phase]
  cases s.block.phase <;> rfl

/-- Settles O8: each read is run in the one state, `State.reset`. -/
theorem resetStateHoldsTheResetValues : Obligations.ResetStateHoldsTheResetValues := by
  have hstatus : Block.reset.statusWord = 0x00000000#32 := by decide
  have hread : exec (.rdStatus 0#32) State.reset = .next { State.reset with rdata := some 0x00000000#32 } := by
    rw [exec_rdStatus, ← hstatus]
    rfl
  exact ⟨rfl, hread, rfl, rfl, rfl, rfl, rfl, rfl⟩

end Sys2Proof.Machine
end

section
/-! PROOFS. The rules of 20_memory.md: transfers of another width, and accesses that may be repeated. -/

namespace Sys2Proof.Machine

/-- Settles O9: no other arm of `step` takes a transfer of another width (20_memory.md R67). -/
theorem transferOfAnotherWidthIsRefused : Obligations.TransferOfAnotherWidthIsRefused := by
  intro s bits rest hpending
  rw [step, hpending]

/-- No access looks at the read data of the access before it, and each sets its own. -/
theorem exec_with_rdata (i : Instr) (s : State) (r : Option Word) : exec i { s with rdata := r } = exec i s := by
  cases i <;> rfl

/-- An access that leaves the block's record as it is leaves the same state, with the same read data, when repeated. -/
theorem exec_repeats {i : Instr} {s t : State} (h : exec i s = .next t) (hblock : t.block = s.block) :
    exec i t = .next t := by
  have ht : t = { s with rdata := t.rdata } := by
    obtain ⟨r, hr⟩ := exec_eq_next i s
    cases hr.symm.trans h
    simpa using hblock
  calc exec i t
      = exec i { s with rdata := t.rdata } := congrArg _ ht
    _ = exec i s := exec_with_rdata i s _
    _ = .next t := h

/-- Settles O35: the quiet accesses leave the record as it is, so they repeat (`exec_repeats`); a dimension write
overwrites what the first one stored. -/
theorem quietAccessesRepeat : Obligations.QuietAccessesRepeat := by
  intro i s t h
  cases i with
  | rdStatus | rdWidth | rdHeight | rdInCount | rdOutLevel | rdFileLen | razwi =>
    have hblock : t.block = s.block := exec_block h
    exact ⟨hblock, exec_repeats h hblock⟩
  | wrWidth | wrHeight =>
    cases h
    rfl
  | _ => trivial

end Sys2Proof.Machine
end

section
/-! PROOFS. Decoding and encoding of host accesses: the two are inverse to each other, and they follow the rows of
opcode_table.json. -/

namespace Sys2Proof

/-! ## The accesses that fall back to RAZWI and CMD.ILLEGAL (30_encoding.md R94, R98) -/

theorem isCommandWord_eq_false_iff (v : Word) :
    isCommandWord v = false ↔ v ≠ 0x00000000#32 ∧ v ≠ 0x00000001#32 ∧ v ≠ 0x00000002#32 ∧ v ≠ 0x00000003#32 := by
  simp [isCommandWord, and_assoc]

/-- The list of R98. -/
theorem isRazwi_iff (w : Bool) (o : Offset) :
    isRazwi w o = true ↔
      o.toNat % 4 ≠ 0 ∨ 0x24 ≤ o.toNat ∨ (w = false ∧ o ∈ [0x00#8, 0x10#8]) ∨
      (w = true ∧ o ∈ [0x04#8, 0x14#8, 0x18#8, 0x1C#8, 0x20#8]) := by
  simp [isRazwi, or_assoc]

/-- A write is RAZWI where its offset names no register that can be written (10_state.md R23). -/
theorem isRazwi_write_iff (o : Offset) :
    isRazwi true o = true ↔ o ≠ 0x00#8 ∧ o ≠ 0x08#8 ∧ o ≠ 0x0C#8 ∧ o ≠ 0x10#8 := by
  simp only [isRazwi_iff, List.mem_cons, List.not_mem_nil, reduceCtorEq, true_and, false_and, or_false, false_or]
  bv_omega

/-- A read is RAZWI where its offset names no register that can be read (10_state.md R23). -/
theorem isRazwi_read_iff (o : Offset) :
    isRazwi false o = true ↔
      o ≠ 0x04#8 ∧ o ≠ 0x08#8 ∧ o ≠ 0x0C#8 ∧ o ≠ 0x14#8 ∧ o ≠ 0x18#8 ∧ o ≠ 0x1C#8 ∧ o ≠ 0x20#8 := by
  simp only [isRazwi_iff, List.mem_cons, List.not_mem_nil, reduceCtorEq, true_and, false_and, or_false]
  bv_omega

theorem decodeCommand_of_illegal {v : Word} (h : isCommandWord v = false) : decodeCommand v = .cmdIllegal v := by
  obtain ⟨h0, h1, h2, h3⟩ := (isCommandWord_eq_false_iff v).mp h
  simp [decodeCommand, h0, h1, h2, h3]

theorem decode_of_isRazwi {w : Bool} {o : Offset} (v : Word) (h : isRazwi w o = true) :
    decode (descriptor w o v) = .razwi w o v := by
  cases w with
  | true =>
    obtain ⟨hcmd, hwidth, hheight, hdin⟩ := (isRazwi_write_iff o).mp h
    simp [decodeWrite, hcmd, hwidth, hheight, hdin]
  | false =>
    obtain ⟨hstatus, hwidth, hheight, hdout, hin, hlevel, hlen⟩ := (isRazwi_read_iff o).mp h
    simp [decodeRead, hstatus, hwidth, hheight, hdout, hin, hlevel, hlen]

/-! ## Decoding and encoding are inverse (30_encoding.md R90, R91) -/

/-- Settles O1: the two fallback rows by what their well-formedness excludes, every other row by its own offset. -/
theorem decodeOfEncodeIsTheInstruction : Obligations.DecodeOfEncodeIsTheInstruction := by
  intro i h
  cases i with
  | cmdIllegal v =>
    have hv : isCommandWord v = false := by simpa [Instr.wellFormed] using h
    calc decode (encode (.cmdIllegal v))
        = decodeCommand v := by simp [encode, decodeWrite]
      _ = .cmdIllegal v := decodeCommand_of_illegal hv
  | razwi w o v => exact decode_of_isRazwi v h
  | _ => simp [encode, decodeWrite, decodeRead, decodeCommand]

/-- The instruction of the descriptor `d`: it is well formed, and `d` is its encoding. -/
def Encodes (i : Instr) (d : Descriptor) : Prop := i.wellFormed = true ∧ encode i = d

theorem decodeCommand_encodes (v : Word) : Encodes (decodeCommand v) (descriptor true 0x00#8 v) := by
  unfold decodeCommand
  split_ifs with h0 h1 h2 h3
  · exact ⟨rfl, by rw [h0, encode]⟩
  · exact ⟨rfl, by rw [h1, encode]⟩
  · exact ⟨rfl, by rw [h2, encode]⟩
  · exact ⟨rfl, by rw [h3, encode]⟩
  · have hillegal := (isCommandWord_eq_false_iff v).mpr ⟨h0, h1, h2, h3⟩
    exact ⟨by rw [Instr.wellFormed, hillegal, Bool.not_false], rfl⟩

theorem decodeWrite_encodes (o : Offset) (v : Word) : Encodes (decodeWrite o v) (descriptor true o v) := by
  unfold decodeWrite
  split_ifs with hcmd hwidth hheight hdin
  · exact hcmd ▸ decodeCommand_encodes v
  · exact ⟨rfl, by rw [hwidth, encode]⟩
  · exact ⟨rfl, by rw [hheight, encode]⟩
  · exact ⟨rfl, by rw [hdin, encode]⟩
  · exact ⟨(isRazwi_write_iff o).mpr ⟨hcmd, hwidth, hheight, hdin⟩, rfl⟩

theorem decodeRead_encodes (o : Offset) (v : Word) : Encodes (decodeRead o v) (descriptor false o v) := by
  unfold decodeRead
  split_ifs with hstatus hwidth hheight hdout hin hlevel hlen
  · exact ⟨rfl, by rw [hstatus, encode]⟩
  · exact ⟨rfl, by rw [hwidth, encode]⟩
  · exact ⟨rfl, by rw [hheight, encode]⟩
  · exact ⟨rfl, by rw [hdout, encode]⟩
  · exact ⟨rfl, by rw [hin, encode]⟩
  · exact ⟨rfl, by rw [hlevel, encode]⟩
  · exact ⟨rfl, by rw [hlen, encode]⟩
  · exact ⟨(isRazwi_read_iff o).mpr ⟨hstatus, hwidth, hheight, hdout, hin, hlevel, hlen⟩, rfl⟩

/-- Settles O2: a descriptor is its three fields, and the decoder of each direction keeps them. -/
theorem encodeOfDecodeIsTheDescriptor : Obligations.EncodeOfDecodeIsTheDescriptor := by
  intro d
  obtain ⟨w, o, v, rfl⟩ : ∃ w o v, d = descriptor w o v := ⟨_, _, _, (descriptor_fields d).symm⟩
  rw [decode_descriptor]
  cases w with
  | true => exact decodeWrite_encodes o v
  | false => exact decodeRead_encodes o v

/-! ## The rows of opcode_table.json (30_encoding.md R91) -/

/-- The row of CMD.ILLEGAL, the first of the fallback rows. -/
def illegalRow : Row := ⟨"CMD.ILLEGAL", 0x10000000000#41, 0x1FF00000000#41, true⟩

/-- The row of RAZWI, which matches everything. -/
def razwiRow : Row := ⟨"RAZWI", 0x00000000000#41, 0x00000000000#41, true⟩

theorem fallbackRows_eq : fallbackRows = [illegalRow, razwiRow] := by decide

theorem mem_opcodeTable_iff (r : Row) : r ∈ opcodeTable ↔ r ∈ plainRows ∨ r = illegalRow ∨ r = razwiRow := by
  have hfallback : r ∈ fallbackRows ↔ r = illegalRow ∨ r = razwiRow := by simp [fallbackRows_eq]
  rw [← hfallback, plainRows, fallbackRows, List.mem_filter, List.mem_filter]
  cases r.fallback <;> simp

/-- A row whose mask is RW and OFFSET matches the accesses with the RW and the OFFSET of its pattern. -/
theorem Row.fields_of_hits {r : Row} {d : Descriptor} (hmask : r.mask = 0x1FF00000000#41) (h : r.hits d = true) :
    descriptorWrite d = descriptorWrite r.pattern ∧ descriptorOffset d = descriptorOffset r.pattern := by
  have hpattern : d &&& 0x1FF00000000#41 = r.pattern := by rw [← hmask]; simpa [Row.hits] using h
  rw [← descriptor_fields d, Laws.EncodesInRow.hits_of_offset] at hpattern
  simp [← hpattern]

/-- RW and OFFSET name the access, but for a CMD write. -/
theorem decode_mnemonic_congr {d d' : Descriptor} (hwrite : descriptorWrite d = descriptorWrite d')
    (hoffset : descriptorOffset d = descriptorOffset d')
    (hcmd : ¬(descriptorWrite d' = true ∧ descriptorOffset d' = 0x00#8)) :
    (decode d).mnemonic = (decode d').mnemonic := by
  unfold decode
  rw [hwrite, hoffset]
  cases hw : descriptorWrite d' with
  | true =>
    have hnot : descriptorOffset d' ≠ 0x00#8 := fun ho => hcmd ⟨hw, ho⟩
    simp only [decodeWrite, if_neg hnot, if_true]
    split_ifs <;> rfl
  | false =>
    simp only [decodeRead, Bool.false_eq_true, if_false]
    split_ifs <;> rfl

/-- A plain row is one descriptor, or a direction and an offset other than those of a CMD write; its pattern decodes to
an instruction of its name. -/
theorem plainRow_cases : ∀ r ∈ plainRows, (decode r.pattern).mnemonic = r.mnemonic ∧
    (r.mask = BitVec.allOnes 41 ∨
      r.mask = 0x1FF00000000#41 ∧ ¬(descriptorWrite r.pattern = true ∧ descriptorOffset r.pattern = 0x00#8)) := by
  decide

theorem decode_mnemonic_of_hits {r : Row} {d : Descriptor} (hr : r ∈ plainRows) (h : r.hits d = true) :
    (decode d).mnemonic = r.mnemonic := by
  obtain ⟨hname, hmask | ⟨hmask, hcmd⟩⟩ := plainRow_cases r hr
  · have hd : d = r.pattern := by simpa only [Row.hits, hmask, BitVec.and_allOnes, beq_iff_eq] using h
    rw [hd, hname]
  · obtain ⟨hwrite, hoffset⟩ := Row.fields_of_hits hmask h
    rw [decode_mnemonic_congr hwrite hoffset hcmd, hname]

/-- No two plain rows have one name. -/
theorem plainRows_mnemonic_inj {r r' : Row} (hr : r ∈ plainRows) (hr' : r' ∈ plainRows)
    (h : r.mnemonic = r'.mnemonic) : r = r' :=
  List.inj_on_of_nodup_map (f := Row.mnemonic) (by decide : (plainRows.map Row.mnemonic).Nodup) hr hr' h

theorem decodeCommand_ne_razwi (v : Word) : (decodeCommand v).mnemonic ≠ razwiRow.mnemonic := by
  unfold decodeCommand
  split_ifs <;> simp [Instr.mnemonic, razwiRow]

/-- What decodes to RAZWI is no CMD write. -/
theorem illegalRow_not_hits_of_razwi {d : Descriptor} (h : (decode d).mnemonic = razwiRow.mnemonic) :
    illegalRow.hits d = false := by
  by_contra hhits
  obtain ⟨hwrite, hoffset⟩ := Row.fields_of_hits (r := illegalRow) rfl (by simpa using hhits)
  have hcommand : decode d = decodeCommand (descriptorData d) := by
    rw [decode, hwrite, hoffset]
    rfl
  exact decodeCommand_ne_razwi _ (hcommand ▸ h)

theorem encodesInRow (i : Instr) : Laws.EncodesInRow.Statement i := by
  cases i with
  | cmdNop => exact Laws.EncodesInRow.cmdNop
  | cmdStart => exact Laws.EncodesInRow.cmdStart
  | cmdFinish => exact Laws.EncodesInRow.cmdFinish
  | cmdAbort => exact Laws.EncodesInRow.cmdAbort
  | cmdIllegal v => exact Laws.EncodesInRow.cmdIllegal v
  | wrWidth v => exact Laws.EncodesInRow.wrWidth v
  | wrHeight v => exact Laws.EncodesInRow.wrHeight v
  | wrDin v => exact Laws.EncodesInRow.wrDin v
  | rdStatus v => exact Laws.EncodesInRow.rdStatus v
  | rdWidth v => exact Laws.EncodesInRow.rdWidth v
  | rdHeight v => exact Laws.EncodesInRow.rdHeight v
  | rdDout v => exact Laws.EncodesInRow.rdDout v
  | rdInCount v => exact Laws.EncodesInRow.rdInCount v
  | rdOutLevel v => exact Laws.EncodesInRow.rdOutLevel v
  | rdFileLen v => exact Laws.EncodesInRow.rdFileLen v
  | razwi w o v => exact Laws.EncodesInRow.razwi w o v

/-- The row of the decoded instruction matches the descriptor. -/
theorem exists_row_of_decode (d : Descriptor) :
    ∃ r ∈ opcodeTable, r.mnemonic = (decode d).mnemonic ∧ r.hits d = true := by
  obtain ⟨r, hr, hname, hhits⟩ := encodesInRow (decode d)
  rw [(encodeOfDecodeIsTheDescriptor d).2] at hhits
  exact ⟨r, hr, hname, hhits⟩

/-- The second step of R91 finds the row of the decoded instruction when the first finds none. -/
theorem find_fallbackRows {d : Descriptor} (hplain : ∀ r ∈ plainRows, r.hits d = false) :
    (fallbackRows.find? (·.hits d)).map Row.mnemonic = some (decode d).mnemonic := by
  obtain ⟨r, hr, hname, hhits⟩ := exists_row_of_decode d
  rw [fallbackRows_eq, ← hname]
  obtain hr | rfl | rfl := (mem_opcodeTable_iff r).mp hr
  · simp [hplain r hr] at hhits
  · simp [hhits]
  · have hillegal := illegalRow_not_hits_of_razwi hname.symm
    simp [hillegal, hhits]

/-- Settles O3: a plain row that matches has the name of the decoded instruction (`decode_mnemonic_of_hits`), and no
two plain rows share a name; where no plain row matches, the fallback rows are tried. -/
theorem decodeFollowsTheOpcodeTable : Obligations.DecodeFollowsTheOpcodeTable := by
  intro d
  constructor
  · intro r hr r' hr' h h'
    exact plainRows_mnemonic_inj hr hr' ((decode_mnemonic_of_hits hr h).symm.trans (decode_mnemonic_of_hits hr' h'))
  · unfold tableLookup
    split
    · next r hfind =>
      have hhits : r.hits d = true := by simpa using List.find?_some hfind
      rw [Option.map_some, decode_mnemonic_of_hits (List.mem_of_find?_eq_some hfind) hhits]
    · next hfind => exact find_fallbackRows (by simpa using hfind)

/-- Settles O5: twelve fixed descriptors are decoded. -/
theorem vectorDescriptorsDecode : Obligations.VectorDescriptorsDecode := by
  unfold Obligations.VectorDescriptorsDecode
  decide

end Sys2Proof
end

section
/-! PROOFS. The fields of a DATA word, and the accesses outside the register map. -/

namespace Sys2Proof.Machine

/-! ## A CMD write (30_encoding.md R92, R93) -/

theorem toNat_cmdOpcode (v : Word) : (cmdOpcode v).toNat = v.toNat % 256 := by
  simp [cmdOpcode]

theorem toNat_cmdReserved (v : Word) : (cmdReserved v).toNat = v.toNat / 256 := by
  have hv := v.isLt
  rw [cmdReserved, BitVec.extractLsb'_toNat, Nat.shiftRight_eq_div_pow, Nat.mod_eq_of_lt (by omega)]

/-- The CMD word with the opcode `c` and RSVD 0. -/
theorem command_fields_iff (v : Word) (c : BitVec 8) :
    cmdReserved v = 0#24 ∧ cmdOpcode v = c ↔ v = c.setWidth 32 := by
  have hreserved := toNat_cmdReserved v
  have hopcode := toNat_cmdOpcode v
  bv_omega

/-- Settles O4: a word with RSVD 0 and a given opcode is one word (`command_fields_iff`), so the fields select the
command as the whole word does. -/
theorem commandWordSelectsTheCommand : Obligations.CommandWordSelectsTheCommand := by
  intro v
  constructor
  · rw [toNat_cmdReserved, toNat_cmdOpcode, Nat.div_add_mod]
  · simp [command_fields_iff, decodeWrite, decodeCommand]

/-! ## A DIN write (30_encoding.md R95) -/

theorem toNat_dinByte (v : Word) : (dinByte v).toNat = v.toNat % 256 := by
  simp [dinByte]

/-- Settles O21: a DIN write uses its byte only. -/
theorem dinIgnoresTheUpperBits : Obligations.DinIgnoresTheUpperBits := by
  intro s v v' h
  have hbyte : dinByte v = dinByte v' := BitVec.eq_of_toNat_eq (by rw [toNat_dinByte, toNat_dinByte, h])
  rw [exec_wrDin, exec_wrDin, hbyte]

/-! ## The accesses of R98 -/

/-- Settles O28: the list is that of `isRazwi` (`isRazwi_iff`), and what is on it decodes to RAZWI; the effect is run
for each direction. -/
theorem unmappedAccessesReadZeroAndIgnoreWrites : Obligations.UnmappedAccessesReadZeroAndIgnoreWrites := by
  intro s w o v
  refine ⟨fun h => decode_of_isRazwi v ((isRazwi_iff w o).mpr h), ?_⟩
  cases w with
  | true => exact exec_razwi_write s v o
  | false => exact exec_razwi_read s v o

end Sys2Proof.Machine
end

section
/-! PROOFS. Every access completes (40_host_commands.md R120), and the cases of each operation on the block's record. -/

namespace Sys2Proof.Machine

/-! ## Every access (40_host_commands.md R120) -/

theorem step_access {s : State} {d : Descriptor} {rest : List HostEvent} (h : s.pending = .access d :: rest) :
    step s = exec (decode d) { s with pending := rest } := by
  rw [step, h]

/-- Settles O6: the access arm of `step`, and the decoder is a left inverse of the encoder. -/
theorem stepRunsTheDecodedAccess : Obligations.StepRunsTheDecodedAccess := by
  refine ⟨fun s d rest => step_access, fun s i rest hwf hpending => ?_⟩
  rw [step_access hpending, decodeOfEncodeIsTheInstruction i hwf]

/-- The instructions of the rows with RW 0 give read data, the others none. -/
theorem exec_rdata_isSome {i : Instr} {s t : State} (h : exec i s = .next t) :
    t.rdata.isSome = !descriptorWrite (encode i) := by
  cases i with
  | razwi write _ _ => cases write <;> cases h <;> simp [encode]
  | _ => cases h; simp [encode]

/-- Settles O11: `exec` answers in every state (`exec_eq_next`), and the decoded instruction has the descriptor's RW. -/
theorem everyAccessCompletes : Obligations.EveryAccessCompletes := by
  intro d s
  obtain ⟨r, h⟩ := exec_eq_next (decode d) s
  have hdata := exec_rdata_isSome h
  rw [(encodeOfDecodeIsTheDescriptor d).2] at hdata
  exact ⟨_, h, hdata, rfl, rfl⟩

/-- A write without effect. -/
theorem State.endWrite_self (s : State) : s.endWrite s.block = { s with rdata := none } := rfl

/-- A CMD or DIN write that raises an error leaves the state of the error entry (60_exceptions.md R300). -/
theorem State.endWrite_raise (s : State) (e : ErrorCode) : s.endWrite (s.block.raise e) = s.afterError e.code := rfl

/-! ## The cases of each operation on the record -/

namespace Block

variable {c : Config} {b : Block}

theorem start_of_error (h : b.phase = .error) : b.start c = b := by rw [start, h]

theorem start_of_accept (h : b.phase = .accept) : b.start c = b.raise .sequence := by rw [start, h]

theorem start_of_resting (h : b.Resting) :
    b.start c =
      if dimsOk c.maxRaw b.width.toNat b.height.toNat then
        { b with wl := b.width, hl := b.height, inCount := 0, raw := [], outq := [], fileLen := 0, errcode := 0#4,
                 phase := .accept }
      else b.raise .badDim := by
  obtain h | h := h <;> rw [start, h]

theorem finish_of_error (h : b.phase = .error) : b.finish c = b := by rw [finish, h]

theorem finish_of_resting (h : b.Resting) : b.finish c = b.raise .sequence := by
  obtain h | h := h <;> rw [finish, h]

theorem finish_of_accept (h : b.phase = .accept) :
    b.finish c =
      if b.inCount ≠ b.bufferBytes then b.raise .sizeMismatch
      else if b.overflows c then b.raise .outOverflow
      else { b with outq := b.file c, fileLen := (b.file c).length, phase := .done } := by
  rw [finish, h]

theorem illegalCommand_of_error (h : b.phase = .error) : b.illegalCommand = b := by rw [illegalCommand, h]

theorem illegalCommand_of_ne_error (h : b.phase ≠ .error) : b.illegalCommand = b.raise .illegalCmd := by
  obtain ⟨herror, _⟩ | ⟨_, hraise⟩ := b.illegalCommand_cases
  · exact absurd herror h
  · exact hraise

theorem feed_of_error (x : Byte) (h : b.phase = .error) : b.feed x = b := by rw [feed, h]

theorem feed_of_resting (x : Byte) (h : b.Resting) : b.feed x = b.raise .sequence := by
  obtain h | h := h <;> rw [feed, h]

theorem feed_of_accept (x : Byte) (h : b.phase = .accept) :
    b.feed x =
      if b.inCount = b.bufferBytes then b.raise .sizeMismatch
      else { b with raw := filterByte b.raw b.inCount b.wl.toNat x, inCount := b.inCount + 1 } := by
  rw [feed, h]

theorem readDout_of_cons {x : Byte} {rest : List Byte} (hphase : b.phase = .done) (hqueue : b.outq = x :: rest) :
    b.readDout = (doutWord x, { b with outq := rest }) := by
  rw [readDout, hphase, hqueue, doutWord]

theorem readDout_of_none (h : ¬(b.phase = .done ∧ b.outq ≠ [])) : b.readDout = (0x00000000#32, b) := by
  obtain ⟨x, rest, hphase, hqueue, _⟩ | ⟨_, hnone⟩ := b.readDout_cases
  · exact absurd ⟨hphase, by simp [hqueue]⟩ h
  · exact hnone

end Block

end Sys2Proof.Machine
end

section
/-! PROOFS. The commands, the register writes and the phase transitions (40_host_commands.md R121 to R128, R136,
R137). -/

namespace Sys2Proof.Machine

/-! ## The commands (40_host_commands.md R121 to R125) -/

/-- Settles O12: NOP ends as a write that keeps the record. -/
theorem nopHasNoEffect : Obligations.NopHasNoEffect := exec_cmdNop

/-- START on illegal dimensions (R136). -/
theorem exec_cmdStart_of_not_dimsLegal {s : State} (hrest : s.block.Resting)
    (hdims : ¬ DimsLegal s.config s.block.width s.block.height) : exec .cmdStart s = .next (s.afterError 3#4) := by
  rw [← dimsOk_iff_dimsLegal] at hdims
  rw [exec_cmdStart, Block.start_of_resting hrest, if_neg hdims, State.endWrite_raise, ErrorCode.code]

/-- START on legal dimensions (R122). -/
theorem exec_cmdStart_of_dimsLegal {s : State} (hrest : s.block.Resting)
    (hdims : DimsLegal s.config s.block.width s.block.height) :
    exec .cmdStart s = .next { s with
      block := { s.block with
        wl := s.block.width, hl := s.block.height, inCount := 0, raw := [], outq := [], fileLen := 0, errcode := 0#4,
        phase := .accept }
      rdata := none } := by
  rw [← dimsOk_iff_dimsLegal] at hdims
  rw [exec_cmdStart, Block.start_of_resting hrest, if_pos hdims]
  rfl

/-- Settles O13: the dimension check of START is the one of R136. -/
theorem startLatchesTheDimensions : Obligations.StartLatchesTheDimensions := by
  intro s
  refine ⟨fun h => ?_, fun h => ?_, exec_cmdStart_of_not_dimsLegal, exec_cmdStart_of_dimsLegal⟩
  · rw [exec_cmdStart, Block.start_of_error h, State.endWrite_self]
  · rw [exec_cmdStart, Block.start_of_accept h, State.endWrite_raise, ErrorCode.code]

/-- A row of 2^30 pixels does not fit a raw stream whose length has 32 bits (R6, R136). -/
theorem not_dimsLegal_of_wide {c : Config} {w h : Word} (hok : c.ok = true) (hw : 0x40000000 ≤ w.toNat) :
    ¬ DimsLegal c w h := by
  rintro ⟨_, _, hh, _, hfit⟩
  obtain ⟨_, _, hmax⟩ := (config_ok_iff c).mp hok
  have hrow : 4 * w.toNat + 1 ≤ h.toNat * (4 * w.toNat + 1) := Nat.le_mul_of_pos_left _ hh
  omega

/-- Settles O14: each of the first three conditions contradicts a bound of R136; the last state meets them all. -/
theorem startRefusesDimensionsThatWouldWrap : Obligations.StartRefusesDimensionsThatWouldWrap := by
  intro s hok hrest
  refine ⟨fun hzero => ?_, fun hw _ => ?_, fun hh => ?_, fun hmax hw hh => ?_⟩
  · apply exec_cmdStart_of_not_dimsLegal hrest
    rintro ⟨hw, _, hh, _, _⟩
    obtain h | h := hzero
    · simp [h] at hw
    · simp [h] at hh
  · exact exec_cmdStart_of_not_dimsLegal hrest (not_dimsLegal_of_wide hok hw)
  · apply exec_cmdStart_of_not_dimsLegal hrest
    rintro ⟨_, _, _, hle, _⟩
    omega
  · have hdims : DimsLegal s.config s.block.width s.block.height := by simp [DimsLegal, hmax, hw, hh]
    exact ⟨_, exec_cmdStart_of_dimsLegal hrest hdims, rfl, hw⟩

/-- Settles O15: in ACCEPT the count is checked first, then the stream and the file (`Block.overflows_iff`). -/
theorem finishReleasesTheFile : Obligations.FinishReleasesTheFile := by
  intro s Z F
  refine ⟨fun h => ?_, fun h => ?_, fun h hcount => ?_, fun h hcount hlong => ?_, fun h hcount hZ hF => ?_⟩
  · rw [exec_cmdFinish, Block.finish_of_error h, State.endWrite_self]
  · rw [exec_cmdFinish, Block.finish_of_resting h, State.endWrite_raise, ErrorCode.code]
  · rw [exec_cmdFinish, Block.finish_of_accept h, if_pos hcount, State.endWrite_raise, ErrorCode.code]
  · rw [exec_cmdFinish, Block.finish_of_accept h, if_neg (not_not.mpr hcount),
      if_pos ((s.block.overflows_iff s.config).mpr hlong), State.endWrite_raise, ErrorCode.code]
  · have hfits : ¬ s.block.overflows s.config = true := by
      rw [Block.overflows_iff, not_or]
      exact ⟨Nat.not_lt.mpr hZ, Nat.not_lt.mpr hF⟩
    rw [exec_cmdFinish, Block.finish_of_accept h, if_neg (not_not.mpr hcount), if_neg hfits]
    rfl

/-- Settles O16: the statement is the record of `Block.abort`, written out. -/
theorem abortReturnsToIdle : Obligations.AbortReturnsToIdle := exec_cmdAbort

/-- Settles O17: a word that is none of the four commands is CMD.ILLEGAL (`decodeCommand_of_illegal`), and the effect
has two cases. -/
theorem illegalCommandWordRaisesIllegalCmd : Obligations.IllegalCommandWordRaisesIllegalCmd := by
  intro s v
  refine ⟨fun hv => ?_, fun h => ?_, fun h => ?_⟩
  · have hillegal : isCommandWord v = false := (isCommandWord_eq_false_iff v).mpr (by simpa using hv)
    calc decode (descriptor true 0x00#8 v)
        = decodeCommand v := by simp [decodeWrite]
      _ = .cmdIllegal v := decodeCommand_of_illegal hillegal
  · rw [exec_cmdIllegal, Block.illegalCommand_of_error h, State.endWrite_self]
  · rw [exec_cmdIllegal, Block.illegalCommand_of_ne_error h, State.endWrite_raise, ErrorCode.code]

/-! ## The register writes (40_host_commands.md R126 to R128) -/

/-- Settles O18: the write is run, and then the read. -/
theorem writeWidthStoresTheValue : Obligations.WriteWidthStoresTheValue :=
  fun s v ignored => ⟨_, exec_wrWidth s v, rfl, exec_rdWidth _ ignored⟩

/-- Settles O19: the write is run, and then the read. -/
theorem writeHeightStoresTheValue : Obligations.WriteHeightStoresTheValue :=
  fun s v ignored => ⟨_, exec_wrHeight s v, rfl, exec_rdHeight _ ignored⟩

theorem dinByte_eq_ofNat (v : Word) : dinByte v = BitVec.ofNat 8 v.toNat :=
  BitVec.eq_of_toNat_eq (by rw [toNat_dinByte, BitVec.toNat_ofNat])

/-- Settles O20: in ACCEPT a byte is refused when the buffer is full, and else appended by the filter (R174). -/
theorem dinFeedsOneByte : Obligations.DinFeedsOneByte := by
  intro s v b
  refine ⟨fun h => ?_, fun h => ?_, fun h hcount => ?_, fun h hcount => ?_⟩
  · rw [exec_wrDin, Block.feed_of_error _ h, State.endWrite_self]
  · rw [exec_wrDin, Block.feed_of_resting _ h, State.endWrite_raise, ErrorCode.code]
  · rw [exec_wrDin, Block.feed_of_accept _ h, if_pos hcount, State.endWrite_raise, ErrorCode.code]
  · rw [exec_wrDin, Block.feed_of_accept _ h, if_neg hcount, filterByte_eq_append, dinByte_eq_ofNat]
    rfl

/-! ## The phase transitions (40_host_commands.md R137) -/

/-- Settles O29: the table, row by row, from the cases of each operation on the record; every other access leaves phase
and code. -/
theorem phaseTransitionsFollowTheTable : Obligations.PhaseTransitionsFollowTheTable := by
  intro i s t h
  rw [exec_block h]
  cases i with
  | cmdStart =>
    obtain ⟨hp, hb⟩ | ⟨hp, hb⟩ | ⟨hp | hp, _, hb⟩ | ⟨hp | hp, _, hb⟩ := s.block.start_cases s.config <;>
      simp [Block.after, hp, hb, ErrorCode.code]
  | cmdFinish =>
    obtain ⟨hp, hb⟩ | ⟨hp | hp, hb⟩ | ⟨hp, _, hb⟩ | ⟨hp, _, _, hb⟩ | ⟨hp, _, _, hb⟩ :=
      s.block.finish_cases s.config <;> simp [Block.after, hp, hb, ErrorCode.code]
  | cmdAbort => exact s.block.abort_phase
  | cmdIllegal _ =>
    cases hp : s.block.phase with
    | error => simp [Block.after, Block.illegalCommand_of_error hp, hp]
    | _ => simp [Block.after, Block.illegalCommand_of_ne_error, hp, ErrorCode.code]
  | wrDin v =>
    obtain ⟨hp, hb⟩ | ⟨hp | hp, hb⟩ | ⟨hp, _, hb⟩ | ⟨hp, _, hb⟩ := s.block.feed_cases (dinByte v) <;>
      simp [Block.after, hp, hb, ErrorCode.code]
  | rdDout _ =>
    rw [Block.after, Block.readDout_block]
    exact ⟨rfl, rfl⟩
  | _ => exact ⟨rfl, rfl⟩

end Sys2Proof.Machine
end

section
/-! PROOFS. The register reads (40_host_commands.md R129 to R135). -/

namespace Sys2Proof.Machine

/-! ## What the invariant and the phase say of the registers (10_state.md R42) -/

namespace Block

variable {c : Config} {b : Block}

theorem PhaseInv.errcode_eq_zero (hb : b.PhaseInv c) (hphase : b.phase ≠ .error) : b.errcode = 0#4 := by
  unfold PhaseInv at hb
  split at hb
  · obtain ⟨_, _, hcode, _⟩ := hb
    exact hcode
  · obtain ⟨_, _, hcode, _⟩ := hb
    exact hcode
  · obtain ⟨hcode, _⟩ := hb
    exact hcode
  · next herror => exact absurd herror hphase

theorem PhaseInv.errcode_range (hb : b.PhaseInv c) (hphase : b.phase = .error) :
    1 ≤ b.errcode.toNat ∧ b.errcode.toNat ≤ 5 := by
  rw [PhaseInv, hphase] at hb
  obtain ⟨hlow, hhigh, _⟩ := hb
  exact ⟨hlow, hhigh⟩

/-- Outside DONE there is no file (10_state.md R32, R38). -/
theorem PhaseInv.no_file (hb : b.PhaseInv c) (hphase : b.phase ≠ .done) : b.outq = [] ∧ b.fileLen = 0 := by
  unfold PhaseInv at hb
  split at hb
  · obtain ⟨hqueue, hlen, _⟩ := hb
    exact ⟨hqueue, hlen⟩
  · obtain ⟨hqueue, hlen, _⟩ := hb
    exact ⟨hqueue, hlen⟩
  · next hdone => exact absurd hdone hphase
  · obtain ⟨_, _, hqueue, hlen⟩ := hb
    exact ⟨hqueue, hlen⟩

/-- What is left of the file is no longer than the file. -/
theorem PhaseInv.length_outq_le (hb : b.PhaseInv c) : b.outq.length ≤ b.fileLen := by
  by_cases hphase : b.phase = .done
  · obtain ⟨_, _, bs, _, _, hlen, hsuffix⟩ := (phaseInv_of_done hphase).mp hb
    rw [hlen]
    exact hsuffix.length_le
  · obtain ⟨hqueue, _⟩ := hb.no_file hphase
    simp [hqueue]

theorem statusWord_of_idle (hphase : b.phase = .idle) (hcode : b.errcode = 0#4) : b.statusWord = 0x00000000#32 := by
  simp [statusWord, inFull, errFlag, outValid, Phase.code, hphase, hcode]

theorem statusWord_of_accept (hphase : b.phase = .accept) (hcode : b.errcode = 0#4) :
    b.statusWord = if b.inCount = b.bufferBytes then 0x00000011#32 else 0x00000001#32 := by
  by_cases hfull : b.inCount = b.bufferBytes <;>
    simp [statusWord, inFull, errFlag, outValid, Phase.code, hphase, hcode, hfull]

theorem statusWord_of_done (hphase : b.phase = .done) (hcode : b.errcode = 0#4) :
    b.statusWord = if b.outq = [] then 0x00000002#32 else 0x00000006#32 := by
  by_cases hqueue : b.outq = [] <;>
    simp [statusWord, inFull, errFlag, outValid, Phase.code, hphase, hcode, hqueue, List.length_pos_iff]

theorem toNat_statusWord_of_error (hphase : b.phase = .error) : b.statusWord.toNat = 256 * b.errcode.toNat + 0xB := by
  have hfields : b.statusWord = b.errcode.setWidth 32 <<< 8 ||| 0xB#32 := by
    simp [statusWord, inFull, errFlag, outValid, Phase.code, hphase, BitVec.or_assoc]
  have hword : ∀ code : BitVec 4, (code.setWidth 32 <<< 8 ||| 0xB#32).toNat = 256 * code.toNat + 0xB := by decide
  rw [hfields, hword]

end Block

/-! ## The reads (40_host_commands.md R129 to R135) -/

/-- Settles O23: the invariant gives the code of each phase, and the phase and the code give the word. -/
theorem statusIsOneOfTenValues : Obligations.StatusIsOneOfTenValues := by
  intro s ignored hs
  obtain ⟨_, _, hb⟩ := hs
  have hcode := hb.errcode_eq_zero
  refine ⟨s.block.statusWord, exec_rdStatus s ignored, fun h => ?_, fun h => ?_, fun h => ?_, fun h => ?_⟩
  · exact Block.statusWord_of_idle h (hcode (by simp [h]))
  · exact Block.statusWord_of_accept h (hcode (by simp [h]))
  · exact Block.statusWord_of_done h (hcode (by simp [h]))
  · have hvalue := Block.toNat_statusWord_of_error h
    have hrange := hb.errcode_range h
    refine ⟨hvalue, ?_⟩
    simp only [List.mem_cons, List.not_mem_nil, or_false]
    bv_omega

/-- Settles O24: a dimension read gives its register's value, in any phase. -/
theorem dimensionReadsGiveTheRegisters : Obligations.DimensionReadsGiveTheRegisters :=
  fun s ignored => ⟨exec_rdWidth s ignored, exec_rdHeight s ignored⟩

theorem toNat_doutWord (x : Byte) : (doutWord x).toNat = 256 + x.toNat := by
  have hor : 256 + x.toNat = 256 ||| x.toNat := Nat.two_pow_add_eq_or_of_lt x.isLt 1
  rw [doutWord, BitVec.toNat_or, BitVec.toNat_setWidth_of_le (by decide), hor]
  rfl

/-- A DOUT read that pops the head of the queue (R132). -/
theorem exec_rdDout_of_cons {s : State} {x : Byte} {rest : List Byte} (v : Word) (hphase : s.block.phase = .done)
    (hqueue : s.block.outq = x :: rest) :
    exec (.rdDout v) s = .next { s with block := { s.block with outq := rest }, rdata := some (doutWord x) } := by
  rw [exec_rdDout, Block.readDout_of_cons hphase hqueue]
  rfl

/-- A DOUT read without a byte to give (R132). -/
theorem exec_rdDout_of_none {s : State} (v : Word) (h : ¬(s.block.phase = .done ∧ s.block.outq ≠ [])) :
    exec (.rdDout v) s = .next { s with rdata := some 0x00000000#32 } := by
  rw [exec_rdDout, Block.readDout_of_none h]
  rfl

/-- Settles O25: VALID is bit 8, above the byte (`toNat_doutWord`). -/
theorem doutPopsTheHead : Obligations.DoutPopsTheHead := by
  intro s ignored
  refine ⟨fun x rest hphase hqueue => ⟨doutWord x, exec_rdDout_of_cons ignored hphase hqueue, toNat_doutWord x⟩,
    fun h => exec_rdDout_of_none ignored ?_⟩
  rwa [← List.length_pos_iff]

/-- Settles O27: each counter is put into a word as it is read. -/
theorem counterReadsComplete : Obligations.CounterReadsComplete :=
  fun s ignored => ⟨exec_rdInCount s ignored, exec_rdOutLevel s ignored, exec_rdFileLen s ignored⟩

/-- Settles O26: the reads complete in every state (`counterReadsComplete`), and the bounds of the invariant keep the
counters below 2^32. -/
theorem counterReadsAreExact : Obligations.CounterReadsAreExact := by
  intro s ignored hs
  obtain ⟨hok, ⟨hin, _, hqueue, hfile⟩, hb⟩ := hs
  obtain ⟨hcap, _, _⟩ := (config_ok_iff _).mp hok
  obtain ⟨hrdIn, hrdLevel, hrdLen⟩ := counterReadsComplete s ignored
  have hlevel : (BitVec.ofNat 32 s.block.outq.length).toNat = s.block.outq.length := Nat.mod_eq_of_lt (by omega)
  have hlen : (BitVec.ofNat 32 s.block.fileLen).toNat = s.block.fileLen := Nat.mod_eq_of_lt (by omega)
  refine ⟨_, _, _, hrdIn, Nat.mod_eq_of_lt hin, hrdLevel, hlevel, hrdLen, hlen, fun hphase => ?_, ?_⟩
  · obtain ⟨hempty, hzero⟩ := hb.no_file hphase
    simp [hempty, hzero]
  · rw [hlevel, hlen]
    exact hb.length_outq_le

end Sys2Proof.Machine
end

section
/-! PROOFS. Sessions of accesses: a run of DIN writes and a run of DOUT reads. -/

namespace Sys2Proof.Machine

/-! ## One access of a session -/

/-- A session that begins with an access runs it, and then the rest. -/
theorem session_cons {i : Instr} {es : List HostEvent} {s t u : State} {vs : List Word} (hwf : i.wellFormed = true)
    (hexec : exec i { s with pending := [] } = .next t) (hrest : session es t = some (vs, u)) :
    session (HostEvent.of i :: es) s = some (t.rdata.toList ++ vs, u) := by
  have hstep : step { s with pending := [HostEvent.of i] } = .next t :=
    (stepRunsTheDecodedAccess.2 _ i [] hwf rfl).trans hexec
  simp only [session, hstep, hrest]

/-! ## A run of DIN writes (41_null_filter.md R177) -/

/-- The encode in progress has accepted the bytes `bs`. -/
def Block.HasAccepted (b : Block) (bs : List Byte) : Prop :=
  b.phase = .accept ∧ b.inCount = bs.length ∧ b.raw = rawPrefix b.wl.toNat bs

/-- The state in which a DIN write leaves an encode that has then accepted the bytes `bs`. -/
def State.fed (s : State) (bs : List Byte) : State :=
  { s with block := { s.block with raw := rawPrefix s.block.wl.toNat bs, inCount := bs.length }, pending := [],
           rdata := none }

theorem exec_wrDin_fed {s : State} {bs : List Byte} (v : Word) (hb : s.block.HasAccepted bs)
    (hroom : bs.length < s.block.bufferBytes) :
    exec (.wrDin v) { s with pending := [] } = .next (s.fed (bs ++ [dinByte v])) := by
  obtain ⟨hphase, hcount, hraw⟩ := hb
  have hnotFull : s.block.inCount ≠ s.block.bufferBytes := by omega
  rw [exec_wrDin, Block.feed_of_accept _ hphase, if_neg hnotFull, State.fed, rawPrefix_concat, ← hraw,
    List.length_append, ← hcount]
  rfl

theorem session_feedEvents_fed {s : State} {bs : List Byte} (v : Word) (data : List Word) (hb : s.block.HasAccepted bs)
    (hroom : bs.length + (data.length + 1) ≤ s.block.bufferBytes) :
    session (feedEvents (v :: data)) s = some ([], s.fed (bs ++ (v :: data).map dinByte)) := by
  induction data generalizing s bs v with
  | nil => exact session_cons rfl (exec_wrDin_fed v hb (by omega)) rfl
  | cons w data ih =>
    have hphase : s.block.phase = .accept := hb.1
    have hb' : (s.fed (bs ++ [dinByte v])).block.HasAccepted (bs ++ [dinByte v]) := ⟨hphase, rfl, rfl⟩
    have hroom' : (bs ++ [dinByte v]).length + (data.length + 1) ≤ s.block.bufferBytes := by
      rw [List.length_append, List.length_singleton]
      rw [List.length_cons] at hroom
      omega
    have hrest := ih w hb' hroom'
    rw [List.append_assoc] at hrest
    exact session_cons rfl (exec_wrDin_fed v hb (by omega)) hrest

/-- Settles O58: before the first write no byte is accepted, and each write accepts one more
(`session_feedEvents_fed`). -/
theorem feedingBuildsTheRawStream : Obligations.FeedingBuildsTheRawStream := by
  intro s data hphase hcount hraw hroom hne
  obtain ⟨v, data, rfl⟩ := List.exists_cons_of_ne_nil hne
  have hsession := session_feedEvents_fed (bs := []) v data ⟨hphase, hcount, hraw⟩ (by simpa using hroom)
  rw [hsession, State.fed, List.nil_append, List.length_map]

/-! ## A run of DOUT reads (10_state.md R29, R38) -/

theorem drainEvents_succ (n : Nat) : drainEvents (n + 1) = HostEvent.of (.rdDout 0#32) :: drainEvents n :=
  List.replicate_succ

/-- What `n` DOUT reads give when the queue is `q`: its bytes in order, and 0 for each read after the last. -/
def drainWords (n : Nat) (q : List Byte) : List Word :=
  (q.take n).map doutWord ++ List.replicate (n - q.length) 0x00000000#32

theorem drainWords_nil (n : Nat) : drainWords (n + 1) [] = 0x00000000#32 :: drainWords n [] := by
  simp [drainWords, List.replicate_succ]

theorem drainWords_cons (n : Nat) (x : Byte) (q : List Byte) :
    drainWords (n + 1) (x :: q) = doutWord x :: drainWords n q := by
  simp [drainWords]

theorem session_drainEvents {s : State} (n : Nat) (hphase : s.block.phase = .done) :
    ∃ t, session (drainEvents n) s = some (drainWords n s.block.outq, t) ∧
      t.block = { s.block with outq := s.block.outq.drop n } ∧ t.config = s.config := by
  induction n generalizing s with
  | zero => exact ⟨s, by simp [drainEvents, drainWords, session], rfl, rfl⟩
  | succ n ih =>
    rw [drainEvents_succ]
    cases hqueue : s.block.outq with
    | nil =>
      have hread := exec_rdDout_of_none (s := { s with pending := [] }) 0#32 (by simp [hqueue])
      obtain ⟨t, hsession, hblock, hconfig⟩ := ih
        (s := { s with pending := [], rdata := some 0x00000000#32 }) hphase
      rw [hqueue] at hsession
      rw [hqueue, List.drop_nil] at hblock
      rw [drainWords_nil, List.drop_nil]
      exact ⟨t, session_cons rfl hread hsession, hblock, hconfig⟩
    | cons x rest =>
      have hread := exec_rdDout_of_cons (s := { s with pending := [] }) 0#32 hphase hqueue
      obtain ⟨t, hsession, hblock, hconfig⟩ := ih
        (s := { s with block := { s.block with outq := rest }, pending := [], rdata := some (doutWord x) }) hphase
      rw [drainWords_cons]
      exact ⟨t, session_cons rfl hread hsession, hblock, hconfig⟩

/-- Settles O59: the first read pops the head, or finds the queue empty and leaves it so, and the rest read what is then
left (`session_drainEvents`). -/
theorem drainingReadsTheQueueInOrder : Obligations.DrainingReadsTheQueueInOrder :=
  fun _ n => session_drainEvents n

end Sys2Proof.Machine
end

section
/-! PROOFS. The raw stream by rows: its length, its rows, and its reversal (41_null_filter.md R173 to R177). -/

namespace Sys2Proof.Machine

/-! ## A buffer and its raw stream, one row at a time -/

/-- A buffer of `h + 1` rows is a row and a buffer of `h` rows. -/
theorem exists_eq_row_append {w h : Nat} {buf : List Byte} (hlen : buf.length = 4 * w * (h + 1)) :
    ∃ row rest, buf = row ++ rest ∧ row.length = rowBytes w ∧ rest.length = 4 * w * h := by
  have hsize : buf.length = 4 * w * h + rowBytes w := hlen
  refine ⟨buf.take (rowBytes w), buf.drop (rowBytes w), (List.take_append_drop _ _).symm, ?_, ?_⟩
  · rw [List.length_take]; omega
  · rw [List.length_drop]; omega

/-- A row passes the filter unchanged, behind its filter byte (R172). -/
theorem rawStream_row_append (w h : Nat) (row rest : List Byte) (hrow : row.length = rowBytes w) :
    rawStream w (h + 1) (row ++ rest) = 0x00#8 :: (row ++ rawStream w h rest) := by
  rw [rawStream, List.take_left' hrow, List.drop_left' hrow]

theorem unfilter_row_append (w h : Nat) (row r : List Byte) (hrow : row.length = rowBytes w) :
    unfilter w (h + 1) (0x00#8 :: (row ++ r)) = (unfilter w h r).map (row ++ ·) := by
  have hfits : 4 * w ≤ (row ++ r).length := by rw [List.length_append, hrow]; exact Nat.le_add_right _ _
  rw [unfilter, if_pos ⟨rfl, hfits⟩, List.take_left' hrow, List.drop_left' hrow]

theorem length_rawStream (w h : Nat) (buf : List Byte) (hlen : buf.length = 4 * w * h) :
    (rawStream w h buf).length = h * (4 * w + 1) := by
  induction h generalizing buf with
  | zero => simp [rawStream]
  | succ h ih =>
    obtain ⟨row, rest, rfl, hrow, hrest⟩ := exists_eq_row_append hlen
    rw [rawStream_row_append w h row rest hrow, List.length_cons, List.length_append, hrow, ih rest hrest]
    ring

/-- What follows the first `y` filtered rows is the raw stream of the buffer behind its first `y` rows. -/
theorem drop_rawStream (w y k : Nat) (buf : List Byte) (hlen : buf.length = 4 * w * (y + k)) :
    (rawStream w (y + k) buf).drop (y * (4 * w + 1)) = rawStream w k (buf.drop (y * (4 * w))) := by
  induction y generalizing buf with
  | zero => simp
  | succ y ih =>
    rw [Nat.succ_add] at hlen ⊢
    obtain ⟨row, rest, rfl, hrow, hrest⟩ := exists_eq_row_append hlen
    have hskip : (y + 1) * (4 * w + 1) = (row.length + y * (4 * w + 1)) + 1 := by rw [hrow]; ring
    have hskip' : (y + 1) * (4 * w) = row.length + y * (4 * w) := by rw [hrow]; ring
    rw [rawStream_row_append w _ row rest hrow, hskip, hskip', List.drop_succ_cons, List.drop_length_add_append,
      List.drop_length_add_append, ih rest hrest]

theorem unfilter_rawStream (w h : Nat) (buf : List Byte) (hlen : buf.length = 4 * w * h) :
    unfilter w h (rawStream w h buf) = some buf := by
  induction h generalizing buf with
  | zero =>
    obtain rfl : buf = [] := List.length_eq_zero_iff.mp hlen
    rfl
  | succ h ih =>
    obtain ⟨row, rest, rfl, hrow, hrest⟩ := exists_eq_row_append hlen
    rw [rawStream_row_append w h row rest hrow, unfilter_row_append w h row _ hrow, ih rest hrest, Option.map_some]

/-! ## The statements -/

/-- Settles O40: behind the first `y` rows stands the raw stream of the rows left (`drop_rawStream`), which begins with
row `y`, or is empty when no row is left. -/
theorem rawStreamIsTheFilteredRows : Obligations.RawStreamIsTheFilteredRows := by
  intro w h buf _ hlen
  refine ⟨fun y hy => ?_, ?_⟩
  · obtain ⟨k, rfl⟩ : ∃ k, h = y + (k + 1) := Nat.exists_eq_add_of_lt hy
    have hleft : (buf.drop (y * (4 * w))).length = 4 * w * (k + 1) := by
      rw [List.length_drop, hlen, Nat.mul_add, Nat.mul_comm y, Nat.add_sub_cancel_left]
    obtain ⟨row, rest, heq, hrow, _⟩ := exists_eq_row_append hleft
    rw [drop_rawStream w y (k + 1) buf hlen, heq, rawStream_row_append w k row rest hrow, List.take_succ_cons,
      List.take_left' hrow, List.take_left' hrow]
  · exact drop_rawStream w h 0 buf hlen

/-- Settles O41, by induction on the rows (`length_rawStream`). -/
theorem rawStreamLength : Obligations.RawStreamLength := length_rawStream

/-- Settles O42: each row starts the filter afresh (`rawPrefix_eq_rawStream`), and each row begun adds one byte
(`length_rawPrefix`). -/
theorem rawPrefixBuildsTheRawStream : Obligations.RawPrefixBuildsTheRawStream :=
  fun w hw => ⟨fun h buf hlen => rawPrefix_eq_rawStream w h buf hw hlen, fun bs => length_rawPrefix w bs hw⟩

/-- Settles O43, by induction on the rows (`unfilter_rawStream`). -/
theorem unfilterRecoversTheBuffer : Obligations.UnfilterRecoversTheBuffer := unfilter_rawStream

end Sys2Proof.Machine
end

section
/-! PROOFS. Adler-32: its loop and the range of its sums. -/

namespace Sys2Proof.Machine

/-! ## Adler-32 (42_deflate_engine.md R194) -/

theorem adlerSums_append (R : List Byte) (b : Byte) : adlerSums (R ++ [b]) = adlerStep (adlerSums R) b := by
  rw [adlerSums, List.foldl_append]
  rfl

theorem adlerSums_le (R : List Byte) : (adlerSums R).1 ≤ 65520 ∧ (adlerSums R).2 ≤ 65520 := by
  induction R using List.reverseRecOn with
  | nil => decide
  | append_singleton R b _ =>
    rw [adlerSums_append]
    exact ⟨Nat.le_of_lt_succ (Nat.mod_lt _ (by decide)), Nat.le_of_lt_succ (Nat.mod_lt _ (by decide))⟩

theorem toNat_adler32 (R : List Byte) : (adler32 R).toNat = (adlerSums R).2 * 65536 + (adlerSums R).1 := by
  have hsums := adlerSums_le R
  rw [adler32, BitVec.toNat_ofNat]
  exact Nat.mod_eq_of_lt (by omega)

/-- Settles O44: the recurrence is one step of the fold (`adlerSums_append`), and a sum modulo 65521 is at most 65520
(`adlerSums_le`). -/
theorem adlerFollowsItsLoop : Obligations.AdlerFollowsItsLoop := by
  refine ⟨rfl, rfl, fun R b => ?_, fun R => ⟨(adlerSums_le R).1, (adlerSums_le R).2, toNat_adler32 R⟩⟩
  rw [adlerSums_append]
  exact ⟨rfl, rfl⟩

end Sys2Proof.Machine
end

section
/-! PROOFS. The canonical Huffman codes: the decoder's search, the loops of R202, and the fixed codes. -/

namespace Sys2Proof.Machine

/-! ## The symbol of a code (42_deflate_engine.md R202) -/

/-- The search finds the symbol of length `L` that has `k` symbols of that length before it. -/
theorem nthOfLength_eq_some_iff (L : Nat) (lens : List Nat) (k start s : Nat) :
    nthOfLength L lens k start = some s ↔
      ∃ i, s = start + i ∧ lens[i]? = some L ∧ (lens.take i).count L = k := by
  induction lens generalizing k start with
  | nil => simp [nthOfLength]
  | cons l ls ih =>
    rw [nthOfLength, ← Nat.or_exists_add_one]
    by_cases hl : l = L
    · subst hl
      cases k with
      | zero => simp [eq_comm]
      | succ k => simp [ih, Nat.add_assoc, Nat.add_comm 1]
    · simp [hl, ih, Nat.add_assoc, Nat.add_comm 1]

theorem getElem?_eq_some_iff_getD {lens : List Nat} {s L : Nat} :
    lens[s]? = some L ↔ s < lens.length ∧ lens.getD s 0 = L := by
  rw [List.getElem?_eq_some_iff, ← exists_prop]
  exact exists_congr fun hs => by rw [List.getD_eq_getElem _ _ hs]

theorem symbolOf_eq_some_iff (lens : List Nat) {L : Nat} (c s : Nat) (hL : 1 ≤ L) :
    symbolOf lens L c = some s ↔ lens[s]? = some L ∧ codeOf lens s = c := by
  have hcode (hs : lens[s]? = some L) : codeOf lens s = firstCode lens L + (lens.take s).count L := by
    rw [codeOf, (getElem?_eq_some_iff_getD.mp hs).2]
  rw [symbolOf]
  split
  · next hlow =>
    refine iff_of_false (by simp) fun ⟨hs, hc⟩ => ?_
    have := hcode hs
    omega
  · next hlow =>
    simp only [nthOfLength_eq_some_iff, Nat.zero_add, exists_eq_left']
    refine and_congr_right fun hs => ?_
    have := hcode hs
    omega

/-! ## The two loops of R202 -/

theorem nextCodeLoop_fst (lens : List Nat) (n : Nat) : (nextCodeLoop lens n).1 = firstCode lens n := by
  induction n with
  | zero => rfl
  | succ n ih => rw [nextCodeLoop, firstCode, ih, Nat.shiftLeft_eq, blCount]; omega

/-- The first loop lists the first codes of the lengths 0 to `n`. -/
theorem nextCodeLoop_snd (lens : List Nat) (n : Nat) :
    (nextCodeLoop lens n).2 = (List.range (n + 1)).map (firstCode lens) := by
  induction n with
  | zero => rfl
  | succ n ih =>
    have hcode : (nextCodeLoop lens (n + 1)).2 = (nextCodeLoop lens n).2 ++ [(nextCodeLoop lens (n + 1)).1] := rfl
    rw [hcode, ih, nextCodeLoop_fst, List.range_succ (n := n + 1), List.map_append]
    rfl

/-- The second loop gives a symbol of length `L` the next code of that length, plus one for each earlier symbol of the
same length. -/
theorem getElem?_assignLoop {next lens : List Nat} {s L : Nat} (hs : lens[s]? = some L) (hL : 1 ≤ L)
    (hnext : L < next.length) :
    (assignLoop next lens)[s]? = some (some (next.getD L 0 + (lens.take s).count L)) := by
  induction lens generalizing next s with
  | nil => simp at hs
  | cons l ls ih =>
    rw [assignLoop]
    cases s with
    | zero =>
      obtain rfl : l = L := by simpa using hs
      simp [Nat.ne_of_gt hL]
    | succ s =>
      have hs' : ls[s]? = some L := hs
      by_cases hl : l = 0
      · have hne : l ≠ L := by omega
        rw [if_neg (not_not.mpr hl), List.getElem?_cons_succ, ih hs' hnext, List.take_succ_cons,
          List.count_cons_of_ne hne]
      · rw [if_pos hl, List.getElem?_cons_succ, ih hs' (by simpa using hnext)]
        by_cases hlL : l = L
        · subst hlL
          simp [hnext, Nat.add_assoc, Nat.add_comm 1]
        · simp [hlL, List.getElem?_set_ne hlL]

theorem getElem?_canonicalCodes {lens : List Nat} {s L : Nat} (hs : lens[s]? = some L) (hL : 1 ≤ L) (hmax : L ≤ 15) :
    (canonicalCodes lens)[s]? = some (some (codeOf lens s)) := by
  have hlt : L < 15 + 1 := Nat.lt_succ_of_le hmax
  rw [canonicalCodes, nextCodeLoop_snd, getElem?_assignLoop hs hL (by simpa using hlt), codeOf,
    (getElem?_eq_some_iff_getD.mp hs).2]
  simp [hlt]

/-- Settles O46: the decoder's search inverts `codeOf` (`symbolOf_eq_some_iff`), and the loops of R202 give a symbol of at
most 15 bits the same code (`getElem?_canonicalCodes`). -/
theorem canonicalDecodingFindsTheCodesSymbol : Obligations.CanonicalDecodingFindsTheCodesSymbol := by
  intro lens L c s hL
  rw [symbolOf_eq_some_iff lens c s hL, ← and_assoc, ← and_assoc, ← getElem?_eq_some_iff_getD]
  refine ⟨fun hmax => and_congr_right fun hs => ?_, Iff.rfl⟩
  rw [getElem?_canonicalCodes hs hL (hmax L (List.mem_of_getElem? hs)), Option.some_inj, Option.some_inj]

/-! ## The fixed codes (42_deflate_engine.md R201) -/

/-- The symbols of a run of one length have consecutive codes. -/
theorem codeOf_run {lens before after : List Nat} {l n start code s : Nat}
    (hlens : lens = before ++ List.replicate n l ++ after) (hstart : before.length = start)
    (hcode : firstCode lens l + before.count l = code) (hlo : start ≤ s) (hhi : s < start + n) :
    lens.getD s 0 = l ∧ codeOf lens s = code + (s - start) := by
  obtain ⟨i, rfl⟩ := Nat.exists_eq_add_of_le hlo
  have hi : i < n := Nat.add_lt_add_iff_left.mp hhi
  have hlen : lens.getD (start + i) 0 = l := by
    simp [hlens, ← hstart, List.getElem?_append, hi]
  have hearlier : (lens.take (start + i)).count l = before.count l + i := by
    rw [hlens, ← hstart, List.append_assoc, List.take_length_add_append,
      List.take_append_of_le_length (by simpa using hi.le), List.take_replicate, List.count_append, List.count_replicate_self,
      Nat.min_eq_left hi.le]
  rw [codeOf, hlen, hearlier, ← Nat.add_assoc, hcode, Nat.add_sub_cancel_left]
  exact ⟨rfl, rfl⟩

/-- The fixed literal/length code, cut before and behind each of its four runs. -/
theorem fixedLitLens_runs :
    fixedLitLens = [] ++ List.replicate 144 8 ++ (List.replicate 112 9 ++ List.replicate 24 7 ++ List.replicate 8 8) ∧
    fixedLitLens = List.replicate 144 8 ++ List.replicate 112 9 ++ (List.replicate 24 7 ++ List.replicate 8 8) ∧
    fixedLitLens = (List.replicate 144 8 ++ List.replicate 112 9) ++ List.replicate 24 7 ++ List.replicate 8 8 ∧
    fixedLitLens = (List.replicate 144 8 ++ List.replicate 112 9 ++ List.replicate 24 7) ++ List.replicate 8 8 ++ [] := by
  simp only [fixedLitLens, List.append_assoc, List.nil_append, List.append_nil, and_self]

/-- Settles O47: the tables are runs of one length, whose codes are consecutive (`codeOf_run`); only the first code of
each run is computed. -/
theorem fixedCodesAreTheTables : Obligations.FixedCodesAreTheTables := by
  have hrunDist : fixedDistLens = [] ++ List.replicate 32 5 ++ [] := rfl
  obtain ⟨hrun0, hrun144, hrun256, hrun280⟩ := fixedLitLens_runs
  refine ⟨fun s hs => ?_, fun s hlo hhi => ?_, fun s hlo hhi => ?_, fun s hlo hhi => ?_, fun d hd => ?_⟩
  · simpa using codeOf_run (code := 48) hrun0 rfl (by decide +kernel) s.zero_le (by omega)
  · exact codeOf_run hrun144 (by decide +kernel) (by decide +kernel) hlo (by omega)
  · simpa using codeOf_run (start := 256) (code := 0) hrun256 (by decide +kernel) (by decide +kernel) hlo (by omega)
  · exact codeOf_run hrun280 (by decide +kernel) (by decide +kernel) hlo (by omega)
  · simpa using codeOf_run (code := 0) hrunDist rfl (by decide +kernel) d.zero_le (by omega)

end Sys2Proof.Machine
end

section
/-! PROOFS. STORED_REF: its sizes, and that INFLATE gives back what it stores. -/

namespace Sys2Proof.Machine

/-! ## Reading bits (42_deflate_engine.md R199) -/

@[simp] theorem bitStream_nil : bitStream [] = [] := rfl

@[simp] theorem bitStream_cons (b : Byte) (D : List Byte) : bitStream (b :: D) = byteBits b ++ bitStream D := rfl

@[simp] theorem bitStream_append (D E : List Byte) : bitStream (D ++ E) = bitStream D ++ bitStream E :=
  List.flatMap_append

@[simp] theorem length_bitStream (D : List Byte) : (bitStream D).length = 8 * D.length := by
  induction D with
  | nil => rfl
  | cons b D ih => rw [bitStream_cons, List.length_append, ih, List.length_cons, byteBits]; simp; omega

/-- `bits(n)` reads the number whose binary digits, the lowest first, are next. -/
theorem takeBits_testBit (n v : Nat) (r : List Bool) :
    takeBits n ((List.range n).map v.testBit ++ r) = some (v % 2 ^ n, r) := by
  induction n generalizing v with
  | zero => simp [takeBits, Nat.mod_one]
  | succ n ih =>
    have hhigh : (List.range n).map (v.testBit ∘ Nat.succ) = (List.range n).map (v / 2).testBit :=
      List.map_congr_left fun i _ => Nat.testBit_succ v i
    have hvalue : v % 2 ^ (n + 1) = 2 * (v / 2 % 2 ^ n) + (v.testBit 0).toNat := by
      rw [Nat.pow_succ', Nat.mod_mul, Nat.add_comm, Nat.toNat_testBit, pow_zero, Nat.div_one]
    rw [List.range_succ_eq_map, List.map_cons, List.map_map, hhigh, List.cons_append, takeBits, ih, hvalue]

theorem takeBits_byteBits (b : Byte) (r : List Bool) : takeBits 8 (byteBits b ++ r) = some (b.toNat, r) := by
  have hbits : byteBits b = (List.range 8).map b.toNat.testBit := rfl
  rw [hbits, takeBits_testBit, Nat.mod_eq_of_lt b.isLt]

theorem takeBits_le16 (v : BitVec 16) (r : List Bool) : takeBits 16 (bitStream (le16 v) ++ r) = some (v.toNat, r) := by
  have hbits : bitStream (le16 v) = (List.range 16).map v.toNat.testBit := by
    simp [le16, byteBits]
    rfl
  rw [hbits, takeBits_testBit, Nat.mod_eq_of_lt v.isLt]

/-! ## One stored block (42_deflate_engine.md R200) -/

theorem copyBytes_bitStream (xs out : List Byte) (r : List Bool) :
    copyBytes xs.length (bitStream xs ++ r) out = some (xs.reverse ++ out, r) := by
  induction xs generalizing out with
  | nil => rfl
  | cons x xs ih =>
    rw [List.length_cons, bitStream_cons, List.append_assoc, copyBytes, takeBits_byteBits]
    simp [ih]

/-- What stands behind the header byte of a stored block of the bytes `xs`: LEN, NLEN and the bytes. -/
def storedBody (xs : List Byte) : List Byte :=
  le16 (BitVec.ofNat 16 xs.length) ++ le16 (BitVec.ofNat 16 xs.length ^^^ 0xFFFF#16) ++ xs

theorem storedBlocks_succ (k : Nat) (R : List Byte) :
    storedBlocks (k + 1) R =
      (if k = 0 then 0x01#8 else 0x00#8) :: (storedBody (R.take 65535) ++ storedBlocks k (R.drop 65535)) := rfl

/-- The bits left of the current byte are skipped; then the body's bytes are copied. -/
theorem storedBlock_storedBody {xs : List Byte} (hlen : xs.length ≤ 65535) (D out : List Byte) {pad : List Bool}
    (hpad : pad.length < 8) :
    storedBlock (pad ++ bitStream (storedBody xs ++ D)) out = some (xs.reverse ++ out, bitStream D) := by
  have hskip : (pad ++ bitStream (storedBody xs ++ D)).length % 8 = pad.length := by
    rw [List.length_append, length_bitStream]; omega
  have hvalue : (BitVec.ofNat 16 xs.length).toNat = xs.length := Nat.mod_eq_of_lt (by omega)
  rw [storedBlock, hskip, List.drop_left, storedBody]
  simp only [bitStream_append, List.append_assoc, takeBits_le16, BitVec.toNat_xor, hvalue, copyBytes_bitStream]
  exact if_pos rfl

theorem inflateBlocks_of_storedBlock {r r' : List Bool} {out out' : List Byte} (fuel : Nat) (final : Bool)
    (hblock : storedBlock r out = some (out', r')) :
    inflateBlocks (fuel + 1) (final :: false :: false :: r) out =
      if final then some (out', r') else inflateBlocks fuel r' out' := by
  cases final <;> simp [inflateBlocks, takeBits, hblock]

theorem inflateBlocks_storedBody {xs : List Byte} (hlen : xs.length ≤ 65535) (fuel k : Nat) (D out : List Byte) :
    inflateBlocks (fuel + 1) (bitStream ((if k = 0 then 0x01#8 else 0x00#8) :: (storedBody xs ++ D))) out =
      if k = 0 then some (xs.reverse ++ out, bitStream D) else inflateBlocks fuel (bitStream D) (xs.reverse ++ out) := by
  have hblock := storedBlock_storedBody hlen D out (pad := List.replicate 5 false) (by decide)
  have hheader : byteBits (if k = 0 then 0x01#8 else 0x00#8) =
      decide (k = 0) :: false :: false :: List.replicate 5 false := by
    split <;> simp_all [byteBits]
  rw [bitStream_cons, hheader]
  simpa using inflateBlocks_of_storedBlock fuel (decide (k = 0)) hblock

/-! ## STORED_REF (42_deflate_engine.md R211, R212) -/

theorem length_storedBlocks (k : Nat) (R : List Byte) :
    (storedBlocks k R).length = min R.length (65535 * k) + 5 * k := by
  induction k generalizing R with
  | zero => simp [storedBlocks]
  | succ k ih =>
    rw [storedBlocks_succ]
    simp only [storedBody, List.length_cons, List.length_append, le16_length, List.length_take, List.length_drop, ih]
    omega

theorem le_mul_storedCount (n : Nat) : n ≤ 65535 * storedCount n := by
  rw [storedCount]; omega

theorem storedCount_pos (n : Nat) : 0 < storedCount n := by
  rw [storedCount]; omega

theorem length_storedRef (R : List Byte) : (storedRef R).length = R.length + 5 * storedCount R.length := by
  rw [storedRef, length_storedBlocks, Nat.min_eq_left (le_mul_storedCount _)]

theorem inflateBlocks_storedBlocks {k fuel : Nat} {R : List Byte} (hR : R.length ≤ 65535 * (k + 1)) (hfuel : k < fuel)
    (out : List Byte) :
    inflateBlocks fuel (bitStream (storedBlocks (k + 1) R)) out = some (R.reverse ++ out, []) := by
  induction k generalizing fuel R out with
  | zero =>
    obtain ⟨fuel, rfl⟩ := Nat.exists_eq_add_one.mpr hfuel
    rw [storedBlocks_succ, List.take_of_length_le hR, inflateBlocks_storedBody hR]
    rfl
  | succ k ih =>
    obtain ⟨fuel, rfl⟩ := Nat.exists_eq_add_one.mpr (Nat.zero_lt_of_lt hfuel)
    have hrest : (R.drop 65535).length ≤ 65535 * (k + 1) := by rw [List.length_drop]; omega
    rw [storedBlocks_succ, inflateBlocks_storedBody (List.length_take_le _ _), if_neg k.succ_ne_zero,
      ih hrest (Nat.lt_of_succ_lt_succ hfuel), ← List.append_assoc, ← List.reverse_append, List.take_append_drop]

theorem inflateBlocks_storedRef (R : List Byte) :
    inflateBlocks (8 * (storedRef R).length) (bitStream (storedRef R)) [] = some (R.reverse, []) := by
  obtain ⟨k, hk⟩ : ∃ k, storedCount R.length = k + 1 := Nat.exists_eq_add_one.mpr (storedCount_pos _)
  have hR : R.length ≤ 65535 * (k + 1) := by rw [← hk]; exact le_mul_storedCount _
  have hfuel : k < 8 * (storedRef R).length := by rw [length_storedRef]; omega
  have hsplit : storedRef R = storedBlocks (k + 1) R := by rw [storedRef, hk]
  rw [hsplit] at hfuel ⊢
  rw [inflateBlocks_storedBlocks hR hfuel, List.append_nil]

theorem inflate_storedRef (R : List Byte) : inflate (storedRef R) = some (R, 8 * (storedRef R).length) := by
  rw [inflate, inflateBlocks_storedRef]
  simp

theorem inflateOk_of_inflate {D R : List Byte} (h : inflate D = some (R, 8 * D.length)) : inflateOk D R = true := by
  have hbytes : (8 * D.length + 7) / 8 = D.length := by omega
  have hpadding : (bitStream D).drop (8 * D.length) = [] := List.drop_eq_nil_of_le (by simp)
  simp [inflateOk, h, hbytes, hpadding]

theorem inflateOk_storedRef (R : List Byte) : inflateOk (storedRef R) R = true :=
  inflateOk_of_inflate (inflate_storedRef R)

/-- Settles O48: INFLATE reads the stored blocks one by one (`inflateBlocks_storedBlocks`) and ends with no bit left. -/
theorem storedRefIsAdmissible : Obligations.StoredRefIsAdmissible := inflateOk_storedRef

end Sys2Proof.Machine
end

section
/-! PROOFS. The block's DEFLATE_IMPL and its zlib container. -/

namespace Sys2Proof.Machine

/-! ## DEFLATE_IMPL (42_deflate_engine.md R197, R209) -/

theorem deflateImpl_of_storedRef {c : Config} (h : c.engine = .storedRef) (R : List Byte) :
    deflateImpl c R = storedRef R := by rw [deflateImpl, h]

theorem inflateOk_deflateImpl {c : Config} {R : List Byte} (hR : R.length ≤ c.maxRaw) :
    inflateOk (deflateImpl c R) R = true := by
  cases hengine : c.engine with
  | storedRef =>
    rw [deflateImpl_of_storedRef hengine]
    exact inflateOk_storedRef R
  | chip =>
    rw [deflateImpl, hengine]
    dsimp only
    split
    · next hguard => simpa [hR.not_gt] using hguard
    · exact inflateOk_storedRef R

/-- Settles O50: STORED_REF is admissible (`inflateOk_storedRef`), and the chip's own bytes stand only where they are. -/
theorem blockEngineIsAdmissible : Obligations.BlockEngineIsAdmissible := fun _ _ => inflateOk_deflateImpl

/-! ## The zlib container (42_deflate_engine.md R190 to R195) -/

section
variable (D R : List Byte)

theorem length_zlibWrap : (zlibWrap D R).length = D.length + 6 := by
  simp [zlibWrap]

theorem zlibWrap_header : (zlibWrap D R).take 2 = [0x78#8, 0xDA#8] := rfl

theorem zlibWrap_body : ((zlibWrap D R).drop 2).take ((zlibWrap D R).length - 6) = D := by
  rw [length_zlibWrap, Nat.add_sub_cancel]
  exact List.take_left

theorem zlibWrap_trailer : (zlibWrap D R).drop ((zlibWrap D R).length - 4) = be32 (adler32 R) := by
  have hskip : (zlibWrap D R).length - 4 = ([zlibCmf, zlibFlg] ++ D).length := by simp [length_zlibWrap]
  rw [hskip]
  exact List.drop_left

end

/-- Settles O45: what `zlibWrap` puts around the body. -/
theorem zlibStreamHasItsHeaderAndTrailer : Obligations.ZlibStreamHasItsHeaderAndTrailer := fun c R =>
  ⟨deflateImpl c R, rfl, rfl, length_zlibWrap _ R, by decide, zlibWrap_trailer _ R⟩

/-- Settles O49: `k` blocks of at most 65535 bytes add 5 bytes each (`length_storedBlocks`), and the container adds 6. -/
theorem storedRefSizes : Obligations.StoredRefSizes := by
  refine fun c R => ⟨length_storedRef R, fun hengine => ?_⟩
  rw [zlib, length_zlibWrap, deflateImpl_of_storedRef hengine, length_storedRef, storedCount]

theorem exists_inflate_of_inflateOk {D R : List Byte} (h : inflateOk D R = true) : ∃ p, inflate D = some (R, p) := by
  rw [inflateOk] at h
  split at h
  · next out p hout =>
    obtain rfl : out = R := by simp_all
    exact ⟨p, hout⟩
  · exact absurd h Bool.false_ne_true

theorem zlibDecode_zlibWrap {D R : List Byte} (h : inflateOk D R = true) : zlibDecode (zlibWrap D R) = some R := by
  obtain ⟨p, hinflate⟩ := exists_inflate_of_inflateOk h
  rw [zlibDecode, zlibWrap_body, hinflate]
  exact if_pos ⟨zlibWrap_header D R, h, zlibWrap_trailer D R⟩

/-- Settles O51: the body inflates exactly to R (`inflateOk_deflateImpl`), so the decoder's checks of body, header and
trailer all pass. -/
theorem zlibStreamDecodesToTheRawStream : Obligations.ZlibStreamDecodesToTheRawStream :=
  fun _ _ hR => zlibDecode_zlibWrap (inflateOk_deflateImpl hR)

end Sys2Proof.Machine
end

section
/-! PROOFS. The CRC unit: the byte update by the table, and the fixed values. -/

namespace Sys2Proof.Machine

/-! ## The bit step: a shift where a 0 falls out, and linear over xor (43_crc32.md R251) -/

theorem crcBit_of_getLsbD_true {c : Word} (h : c.getLsbD 0 = true) : crcBit c = (c >>> 1) ^^^ 0xEDB88320#32 := if_pos h

theorem crcBit_of_getLsbD_false {c : Word} (h : c.getLsbD 0 = false) : crcBit c = c >>> 1 :=
  if_neg (ne_true_of_eq_false h)

/-- The polynomial enters where exactly one of the two lowest bits is set; where both are, it cancels. -/
theorem crcBit_xor (c d : Word) : crcBit (c ^^^ d) = crcBit c ^^^ crcBit d := by
  have hbit : (c ^^^ d).getLsbD 0 = (c.getLsbD 0 ^^ d.getLsbD 0) := BitVec.getLsbD_xor
  cases hc : c.getLsbD 0 <;> cases hd : d.getLsbD 0 <;> rw [hc, hd] at hbit
  case false.false =>
    rw [crcBit_of_getLsbD_false hbit, crcBit_of_getLsbD_false hc, crcBit_of_getLsbD_false hd,
      BitVec.ushiftRight_xor_distrib]
  case false.true =>
    rw [crcBit_of_getLsbD_true hbit, crcBit_of_getLsbD_false hc, crcBit_of_getLsbD_true hd,
      BitVec.ushiftRight_xor_distrib, BitVec.xor_assoc]
  case true.false =>
    rw [crcBit_of_getLsbD_true hbit, crcBit_of_getLsbD_true hc, crcBit_of_getLsbD_false hd,
      BitVec.ushiftRight_xor_distrib]
    ac_rfl
  case true.true =>
    rw [crcBit_of_getLsbD_false hbit, crcBit_of_getLsbD_true hc, crcBit_of_getLsbD_true hd,
      BitVec.ushiftRight_xor_distrib, BitVec.xor_comm (d >>> 1), BitVec.xor_assoc,
      ← BitVec.xor_assoc 0xEDB88320#32, BitVec.xor_self, BitVec.zero_xor]

theorem repeat_crcBit_xor (c d : Word) (n : ℕ) :
    Nat.repeat crcBit n (c ^^^ d) = Nat.repeat crcBit n c ^^^ Nat.repeat crcBit n d := by
  induction n with
  | zero => rfl
  | succ n ih => simp only [Nat.repeat, ih, crcBit_xor]

/-- While only 0s fall out, the polynomial never enters. -/
theorem repeat_crcBit_of_low_zero {c : Word} {n : ℕ} (h : ∀ i < n, c.getLsbD i = false) :
    Nat.repeat crcBit n c = c >>> n := by
  induction n with
  | zero => exact (BitVec.ushiftRight_zero c).symm
  | succ n ih =>
    have hout : (c >>> n).getLsbD 0 = false := by simpa using h n n.lt_succ_self
    rw [Nat.repeat, ih fun i hi => h i (Nat.lt_succ_of_lt hi), crcBit_of_getLsbD_false hout, BitVec.shiftRight_add]

/-! ## The table-driven form (43_crc32.md R253) -/

theorem crcTable_eq_repeat (i : Byte) : crcTable i = Nat.repeat crcBit 8 (i.setWidth 32) := by
  simp [crcTable, crcUpdate]

theorem setWidth_byte_ushiftRight_eight (b : Byte) : b.setWidth 32 >>> 8 = 0#32 := by
  ext i hi
  simp

theorem getLsbD_xor_lowByte (x : Word) : ∀ i < 8, (x ^^^ (x.setWidth 8).setWidth 32).getLsbD i = false := by
  intro i hi
  have hword : i < 32 := Nat.lt_trans hi (by decide)
  simp [hi, hword]

/-- Bits above the lowest byte only move down; the lowest byte goes through the table. -/
theorem repeat_crcBit_upper_xor_byte {u : Word} (hu : ∀ i < 8, u.getLsbD i = false) (i : Byte) :
    Nat.repeat crcBit 8 (u ^^^ i.setWidth 32) = (u >>> 8) ^^^ crcTable i := by
  rw [repeat_crcBit_xor, repeat_crcBit_of_low_zero hu, crcTable_eq_repeat]

theorem repeat_crcBit_eight (x : Word) : Nat.repeat crcBit 8 x = (x >>> 8) ^^^ crcTable (x.setWidth 8) := by
  have hparts := repeat_crcBit_upper_xor_byte (getLsbD_xor_lowByte x) (x.setWidth 8)
  rwa [BitVec.xor_assoc, BitVec.xor_self, BitVec.xor_zero, BitVec.ushiftRight_xor_distrib,
    setWidth_byte_ushiftRight_eight, BitVec.xor_zero] at hparts

theorem crcUpdate_eq_crcUpdateByTable (c : Word) (b : Byte) : crcUpdate c b = crcUpdateByTable c b := by
  rw [crcUpdate, repeat_crcBit_eight, BitVec.ushiftRight_xor_distrib, setWidth_byte_ushiftRight_eight, BitVec.xor_zero,
    crcUpdateByTable]

/-- Settles O52: the bit step is linear over xor, so the upper 24 bits and the lowest byte part (`repeat_crcBit_eight`). -/
theorem crcTableFormAgrees : Obligations.CrcTableFormAgrees :=
  ⟨crcUpdate_eq_crcUpdateByTable, by decide, by decide, by decide, by decide⟩

/-- Settles O53: fixed values, each computed. -/
theorem crcCheckValues : Obligations.CrcCheckValues :=
  ⟨by decide +kernel, by decide, by decide +kernel, by decide +kernel, by decide +kernel⟩

end Sys2Proof.Machine
end

section
/-! PROOFS. The chunk framer: a chunk by its fields, the file by its chunks, and the reader of R283. -/

namespace Sys2Proof.Machine

/-! ## Big-endian fields (44_chunk_framer.md R270) -/

theorem beValue_be32 (v : Word) : beValue (be32 v) = v.toNat := by
  have hv := v.isLt
  simp only [beValue, be32, List.foldl_cons, List.foldl_nil, BitVec.extractLsb'_toNat, Nat.shiftRight_eq_div_pow]
  omega

theorem ofNat_beValue_be32 (v : Word) : BitVec.ofNat 32 (beValue (be32 v)) = v := by
  rw [beValue_be32, BitVec.ofNat_toNat, BitVec.setWidth_eq]

theorem beValue_be32_ofNat {n : Nat} (hn : n ≤ 2 ^ 31 - 1) : beValue (be32 (BitVec.ofNat 32 n)) = n := by
  rw [beValue_be32, BitVec.toNat_ofNat]
  exact Nat.mod_eq_of_lt (by omega)

/-! ## A chunk (44_chunk_framer.md R272) -/

@[simp] theorem tagIhdr_length : tagIhdr.length = 4 := rfl
@[simp] theorem tagIdat_length : tagIdat.length = 4 := rfl
@[simp] theorem tagIend_length : tagIend.length = 4 := rfl
@[simp] theorem pngSignature_length : pngSignature.length = 8 := rfl
@[simp] theorem ihdrPayload_length (w h : Word) : (ihdrPayload w h).length = 13 := rfl

theorem length_chunk {tag : List Byte} (payload : List Byte) (htag : tag.length = 4) :
    (chunk tag payload).length = payload.length + 12 := by
  simp only [chunk, List.length_append, be32_length, htag]
  omega

/-- The part that stands at offset `n` ends where the next one begins. -/
theorem drop_eq_of_drop_eq_append {F X S : List Byte} {n m : Nat} (h : F.drop n = X ++ S) (hm : n + X.length = m) :
    F.drop m = S := by
  rw [← hm, ← List.drop_drop, h, List.drop_left]

/-- The fields of a chunk that stands at offset `n` of a byte list, and what follows it. -/
theorem chunk_fields {F tag payload rest : List Byte} {n : Nat} (htag : tag.length = 4)
    (h : F.drop n = chunk tag payload ++ rest) :
    (F.drop n).take 4 = be32 (BitVec.ofNat 32 payload.length) ∧ (F.drop (n + 4)).take 4 = tag ∧
    (F.drop (n + 8)).take payload.length = payload ∧
    (F.drop (n + 8 + payload.length)).take 4 = be32 (crc32 (tag ++ payload)) ∧
    F.drop (n + 12 + payload.length) = rest := by
  simp only [chunk, List.append_assoc] at h
  have htagAt := drop_eq_of_drop_eq_append (m := n + 4) h rfl
  have hpayloadAt := drop_eq_of_drop_eq_append (m := n + 8) htagAt (by omega)
  have hcrcAt := drop_eq_of_drop_eq_append hpayloadAt rfl
  have hrestAt := drop_eq_of_drop_eq_append (m := n + 12 + payload.length) hcrcAt (by rw [be32_length]; omega)
  rw [h, htagAt, hpayloadAt, hcrcAt]
  exact ⟨List.take_left' rfl, List.take_left' htag, List.take_left, List.take_left' rfl, hrestAt⟩

theorem parseChunk_chunk_append {tag payload : List Byte} (rest : List Byte) (htag : tag.length = 4)
    (hlen : payload.length ≤ 2 ^ 31 - 1) : parseChunk (chunk tag payload ++ rest) = some (tag, payload, rest) := by
  obtain ⟨hsize, htagAt, hpayloadAt, hcrcAt, hrestAt⟩ :=
    chunk_fields (F := chunk tag payload ++ rest) (n := 0) htag rfl
  simp only [Nat.zero_add, List.drop_zero] at hsize htagAt hpayloadAt hcrcAt hrestAt
  have hfits : payload.length + 12 ≤ (chunk tag payload ++ rest).length := by
    rw [List.length_append, length_chunk payload htag]
    exact Nat.le_add_right _ _
  simp only [parseChunk, hsize, beValue_be32_ofNat hlen, htagAt, hpayloadAt, hrestAt]
  exact if_pos ⟨hfits, hcrcAt⟩

/-- Settles O54: the fields of a chunk stand one behind the other (`chunk_fields`), and a length in R272's range fits its
field (`beValue_be32_ofNat`). -/
theorem chunkParsesBack : Obligations.ChunkParsesBack := by
  intro tag payload rest htag hlen
  refine ⟨length_chunk payload htag, ?_, parseChunk_chunk_append rest htag hlen⟩
  obtain ⟨hsize, -⟩ := chunk_fields (n := 0) htag (List.append_nil (chunk tag payload)).symm
  exact (congrArg beValue hsize).trans (beValue_be32_ofNat hlen)

/-! ## The file (44_chunk_framer.md R279) -/

/-- Settles O56: fixed bytes, computed. -/
theorem deploymentIhdrChunk : Obligations.DeploymentIhdrChunk := by
  unfold Obligations.DeploymentIhdrChunk
  decide +kernel

theorem chunk_tagIend_nil : chunk tagIend [] =
    [0x00#8, 0x00#8, 0x00#8, 0x00#8, 0x49#8, 0x45#8, 0x4E#8, 0x44#8, 0xAE#8, 0x42#8, 0x60#8, 0x82#8] := by
  decide +kernel

section
variable (w h : Word) (Z : List Byte)

theorem length_frame : (frame w h Z).length = Z.length + 57 := by
  simp only [frame, List.length_append, pngSignature_length, length_chunk _ tagIhdr_length, ihdrPayload_length,
    length_chunk _ tagIdat_length, length_chunk _ tagIend_length, List.length_nil]
  omega

theorem take_frame_eight : (frame w h Z).take 8 = pngSignature := rfl

theorem drop_frame_eight : (frame w h Z).drop 8 =
    chunk tagIhdr (ihdrPayload w h) ++ (chunk tagIdat Z ++ chunk tagIend []) := by
  rw [frame, List.append_assoc, List.append_assoc]
  exact List.drop_left' rfl

end

/-- Settles O55: the IDAT chunk stands at 33, behind the 25 bytes of IHDR; its fields (`chunk_fields`) have the listed
places for every Z. -/
theorem fileHasItsLayout : Obligations.FileHasItsLayout := by
  intro w h Z F
  have hihdrAt : F.drop 8 = _ := drop_frame_eight w h Z
  have hidatAt : F.drop 33 = chunk tagIdat Z ++ chunk tagIend [] := drop_eq_of_drop_eq_append hihdrAt rfl
  obtain ⟨hsize, htag, hZ, hcrc, hiend⟩ := chunk_fields rfl hidatAt
  refine ⟨length_frame w h Z, take_frame_eight w h Z, ?_, hsize, htag, hZ, hcrc, hiend.trans chunk_tagIend_nil⟩
  rw [hihdrAt]
  exact List.take_left' rfl

/-! ## The reader (44_chunk_framer.md R283) -/

theorem pngDecode_frame {w h : Word} {Z R buf : List Byte} (hlen : Z.length ≤ 2 ^ 31 - 1)
    (hzlib : zlibDecode Z = some R) (hfilter : unfilter w.toNat h.toNat R = some buf) :
    pngDecode (frame w h Z) = some (w, h, buf) := by
  have hihdrLen : (ihdrPayload w h).length ≤ 2 ^ 31 - 1 := by rw [ihdrPayload_length]; omega
  have hihdr := parseChunk_chunk_append (chunk tagIdat Z ++ chunk tagIend []) tagIhdr_length hihdrLen
  have hidat := parseChunk_chunk_append (chunk tagIend []) tagIdat_length hlen
  have hiend := parseChunk_chunk_append (payload := []) [] tagIend_length (Nat.zero_le _)
  rw [List.append_nil] at hiend
  have hw : BitVec.ofNat 32 (beValue ((ihdrPayload w h).take 4)) = w := ofNat_beValue_be32 w
  have hh : BitVec.ofNat 32 (beValue (((ihdrPayload w h).drop 4).take 4)) = h := ofNat_beValue_be32 h
  rw [pngDecode, if_neg (fun hsig => hsig (take_frame_eight w h Z))]
  simp only [drop_frame_eight, hihdr, hidat, hiend, hw, hh, hzlib, hfilter, Option.map_some]
  exact if_pos ⟨rfl, rfl, rfl, rfl, trivial, trivial⟩

/-- Settles O57: the chunks are read back (`pngDecode_frame`), the zlib stream of a legal image decodes to its raw stream
(`zlibDecode_zlibWrap`), and that reverses to the buffer (`unfilter_rawStream`). -/
theorem pngFileDecodesToTheImage : Obligations.PngFileDecodesToTheImage := by
  intro c w h buf _ hdims hbuf hlen
  obtain ⟨-, -, -, -, hraw⟩ := hdims
  have hcap : (rawStream w.toNat h.toNat buf).length ≤ c.maxRaw := (length_rawStream _ _ buf hbuf).trans_le hraw
  exact pngDecode_frame hlen (zlibDecode_zlibWrap (inflateOk_deflateImpl hcap)) (unfilter_rawStream _ _ buf hbuf)

end Sys2Proof.Machine
end

section
/-! PROOFS. The error entry and its causes, the ERROR phase and the ways out of it (60_exceptions.md R300 to R309), and
the step without an event. -/

namespace Sys2Proof.Machine

/-! ## The causes of an error (60_exceptions.md R301 to R305) -/

theorem ErrorCode.code_injective : Function.Injective ErrorCode.code := by
  intro e e'
  cases e <;> cases e' <;> decide

/-- The cases in which the access `i` raises the error `e` on the record `b` of a block of parameters `c`. -/
inductive Block.Raises (c : Config) (b : Block) : Instr → ErrorCode → Prop where
  /-- R301. -/
  | illegal (v : Word) (hphase : b.phase ≠ .error) : b.Raises c (.cmdIllegal v) .illegalCmd
  /-- R302 (a). -/
  | startInAccept (hphase : b.phase = .accept) : b.Raises c .cmdStart .sequence
  /-- R302 (b). -/
  | finishAtRest (hrest : b.Resting) : b.Raises c .cmdFinish .sequence
  /-- R302 (c). -/
  | feedAtRest (v : Word) (hrest : b.Resting) : b.Raises c (.wrDin v) .sequence
  /-- R303. -/
  | badDimensions (hrest : b.Resting) (hdims : ¬ DimsLegal c b.width b.height) : b.Raises c .cmdStart .badDim
  /-- R304, FINISH before the buffer is full. -/
  | finishTooEarly (hphase : b.phase = .accept) (hcount : b.inCount ≠ b.bufferBytes) :
    b.Raises c .cmdFinish .sizeMismatch
  /-- R304, a byte behind the full buffer. -/
  | feedTooMuch (v : Word) (hphase : b.phase = .accept) (hcount : b.inCount = b.bufferBytes) :
    b.Raises c (.wrDin v) .sizeMismatch
  /-- R305. -/
  | overflow (hphase : b.phase = .accept) (hcount : b.inCount = b.bufferBytes) (hlong : b.overflows c = true) :
    b.Raises c .cmdFinish .outOverflow

/-- An access in one of the listed cases enters ERROR by the error entry and does nothing else (R300, R306). -/
theorem exec_of_raises {i : Instr} {s : State} {e : ErrorCode} (h : s.block.Raises s.config i e) :
    exec i s = .next (s.afterError e.code) := by
  rw [← State.endWrite_raise]
  cases h with
  | illegal v hphase => rw [exec_cmdIllegal, Block.illegalCommand_of_ne_error hphase]
  | startInAccept hphase => rw [exec_cmdStart, Block.start_of_accept hphase]
  | finishAtRest hrest => rw [exec_cmdFinish, Block.finish_of_resting hrest]
  | feedAtRest v hrest => rw [exec_wrDin, Block.feed_of_resting _ hrest]
  | badDimensions hrest hdims => exact exec_cmdStart_of_not_dimsLegal hrest hdims
  | finishTooEarly hphase hcount => rw [exec_cmdFinish, Block.finish_of_accept hphase, if_pos hcount]
  | feedTooMuch v hphase hcount => rw [exec_wrDin, Block.feed_of_accept _ hphase, if_pos hcount]
  | overflow hphase hcount hlong =>
    rw [exec_cmdFinish, Block.finish_of_accept hphase, if_neg (not_not.mpr hcount), if_pos hlong]

/-- Only an access in one of the listed cases enters ERROR. -/
theorem Block.exists_raises_of_after {c : Config} {b : Block} {i : Instr} (hphase : b.phase ≠ .error)
    (h : (b.after c i).phase = .error) : ∃ e, b.Raises c i e := by
  cases i with
  | cmdStart =>
    obtain ⟨herror, _⟩ | ⟨haccept, _⟩ | ⟨hrest, hdims, _⟩ | ⟨_, _, hstart⟩ := b.start_cases c
    · exact absurd herror hphase
    · exact ⟨_, .startInAccept haccept⟩
    · exact ⟨_, .badDimensions hrest (by simp [← dimsOk_iff_dimsLegal, hdims])⟩
    · simp [after, hstart] at h
  | cmdFinish =>
    obtain ⟨herror, _⟩ | ⟨hrest, _⟩ | ⟨haccept, hcount, _⟩ | ⟨haccept, hcount, hlong, _⟩ | ⟨_, _, _, hfinish⟩ :=
      b.finish_cases c
    · exact absurd herror hphase
    · exact ⟨_, .finishAtRest hrest⟩
    · exact ⟨_, .finishTooEarly haccept hcount⟩
    · exact ⟨_, .overflow haccept hcount hlong⟩
    · simp [after, hfinish] at h
  | cmdAbort => simp [after] at h
  | cmdIllegal v => exact ⟨_, .illegal v hphase⟩
  | wrDin v =>
    obtain ⟨herror, _⟩ | ⟨hrest, _⟩ | ⟨haccept, hcount, _⟩ | ⟨haccept, _, hfeed⟩ := b.feed_cases (dinByte v)
    · exact absurd herror hphase
    · exact ⟨_, .feedAtRest v hrest⟩
    · exact ⟨_, .feedTooMuch v haccept hcount⟩
    · simp [after, hfeed, haccept] at h
  | rdDout _ =>
    rw [after, readDout_block] at h
    exact absurd h hphase
  | _ => exact absurd h hphase

/-! ## The error entry (60_exceptions.md R300, R306) -/

section

variable {i : Instr} {s t : State} (hexec : exec i s = .next t) (hphase : s.block.phase ≠ .error)

include hexec hphase

/-- An access that enters ERROR is in one of the listed cases, and its outcome is the error entry. -/
theorem exists_raises_of_enters (herror : t.block.phase = .error) :
    ∃ e, s.block.Raises s.config i e ∧ t = s.afterError e.code := by
  rw [exec_block hexec] at herror
  obtain ⟨e, he⟩ := Block.exists_raises_of_after hphase herror
  exact ⟨e, he, Host.Outcome.next.inj (hexec.symm.trans (exec_of_raises he))⟩

theorem enters_iff_raises (e : ErrorCode) :
    (t.block.phase = .error ∧ t.block.errcode = e.code) ↔ s.block.Raises s.config i e := by
  constructor
  · rintro ⟨herror, hcode⟩
    obtain ⟨e', he', rfl⟩ := exists_raises_of_enters hexec hphase herror
    rwa [← ErrorCode.code_injective hcode]
  · intro he
    cases hexec.symm.trans (exec_of_raises he)
    exact ⟨rfl, rfl⟩

theorem eq_afterError_of_enters (herror : t.block.phase = .error) : t = s.afterError t.block.errcode := by
  obtain ⟨e, _, rfl⟩ := exists_raises_of_enters hexec hphase herror
  rfl

end

/-- Settles O30: an access that enters ERROR has a cause, and its outcome is the error entry with that cause's code. -/
theorem errorEntryIsPrecise : Obligations.ErrorEntryIsPrecise := by
  intro i s t hexec hphase herror
  obtain ⟨e, _, rfl⟩ := exists_raises_of_enters hexec hphase herror
  obtain ⟨hlow, hhigh⟩ := e.code_range
  exact ⟨hlow, hhigh, rfl⟩

/-! ## The causes of each code -/

namespace Block

variable {c : Config} {b : Block} {i : Instr}

theorem raises_illegalCmd_iff (hphase : b.phase ≠ .error) : b.Raises c i .illegalCmd ↔ ∃ v, i = .cmdIllegal v := by
  constructor
  · intro h
    cases h with
    | illegal v => exact ⟨v, rfl⟩
  · rintro ⟨v, rfl⟩
    exact .illegal v hphase

theorem raises_sequence_iff : b.Raises c i .sequence ↔
    (i = .cmdStart ∧ b.phase = .accept) ∨ (i = .cmdFinish ∧ b.Resting) ∨ (∃ v, i = .wrDin v ∧ b.Resting) := by
  constructor
  · intro h
    cases h with
    | startInAccept haccept => exact .inl ⟨rfl, haccept⟩
    | finishAtRest hrest => exact .inr (.inl ⟨rfl, hrest⟩)
    | feedAtRest v hrest => exact .inr (.inr ⟨v, rfl, hrest⟩)
  · rintro (⟨rfl, haccept⟩ | ⟨rfl, hrest⟩ | ⟨v, rfl, hrest⟩)
    · exact .startInAccept haccept
    · exact .finishAtRest hrest
    · exact .feedAtRest v hrest

theorem raises_badDim_iff : b.Raises c i .badDim ↔ i = .cmdStart ∧ b.Resting ∧ ¬ DimsLegal c b.width b.height := by
  constructor
  · intro h
    cases h with
    | badDimensions hrest hdims => exact ⟨rfl, hrest, hdims⟩
  · rintro ⟨rfl, hrest, hdims⟩
    exact .badDimensions hrest hdims

/-- In ACCEPT the count is never above the buffer's length (10_state.md R42), so FINISH before the buffer is full is
FINISH with fewer bytes. -/
theorem PhaseInv.inCount_ne_iff (hb : b.PhaseInv c) (hphase : b.phase = .accept) :
    b.inCount ≠ b.bufferBytes ↔ b.inCount < b.bufferBytes := by
  obtain ⟨_, _, _, _, hle, _⟩ := (phaseInv_of_accept hphase).mp hb
  exact hle.lt_iff_ne.symm

theorem raises_sizeMismatch_iff (hb : b.PhaseInv c) : b.Raises c i .sizeMismatch ↔
    (i = .cmdFinish ∧ b.phase = .accept ∧ b.inCount < b.bufferBytes) ∨
    (∃ v, i = .wrDin v ∧ b.phase = .accept ∧ b.inCount = b.bufferBytes) := by
  constructor
  · intro h
    cases h with
    | finishTooEarly haccept hcount => exact .inl ⟨rfl, haccept, (hb.inCount_ne_iff haccept).mp hcount⟩
    | feedTooMuch v haccept hcount => exact .inr ⟨v, rfl, haccept, hcount⟩
  · rintro (⟨rfl, haccept, hcount⟩ | ⟨v, rfl, haccept, hcount⟩)
    · exact .finishTooEarly haccept ((hb.inCount_ne_iff haccept).mpr hcount)
    · exact .feedTooMuch v haccept hcount

/-- The overflow check, on the length of the zlib stream alone (44_chunk_framer.md R280). -/
theorem overflows_iff_length_zlib : b.overflows c = true ↔
    2 ^ 31 - 1 < (zlib c b.raw).length ∨ c.outCap < (zlib c b.raw).length + 57 := by
  rw [overflows_iff, file, length_frame]

theorem raises_outOverflow_iff : b.Raises c i .outOverflow ↔
    i = .cmdFinish ∧ b.phase = .accept ∧ b.inCount = b.bufferBytes ∧
    (2 ^ 31 - 1 < (zlib c b.raw).length ∨ c.outCap < (zlib c b.raw).length + 57) := by
  rw [← overflows_iff_length_zlib]
  constructor
  · intro h
    cases h with
    | overflow haccept hcount hlong => exact ⟨rfl, haccept, hcount, hlong⟩
  · rintro ⟨rfl, haccept, hcount, hlong⟩
    exact .overflow haccept hcount hlong

end Block

/-- Settles O31: entering ERROR with a code is having one of its causes (`enters_iff_raises`), and those of each code
are the listed ones. -/
theorem eachErrorHasExactlyItsCauses : Obligations.EachErrorHasExactlyItsCauses := by
  intro i s t hs hphase hexec full
  obtain ⟨_, _, hb⟩ := hs
  have henters := enters_iff_raises hexec hphase
  exact ⟨(henters .illegalCmd).trans (Block.raises_illegalCmd_iff hphase),
    (henters .sequence).trans Block.raises_sequence_iff,
    (henters .badDim).trans Block.raises_badDim_iff,
    (henters .sizeMismatch).trans (Block.raises_sizeMismatch_iff hb),
    (henters .outOverflow).trans Block.raises_outOverflow_iff,
    eq_afterError_of_enters hexec hphase⟩

/-! ## The ERROR phase (60_exceptions.md R308, R309) -/

/-- Settles O32: the four operations that look at the phase keep the record in ERROR, and a DOUT read outside DONE
gives 0. -/
theorem errorPhaseIgnoresOtherAccesses : Obligations.ErrorPhaseIgnoresOtherAccesses := by
  intro i s t herror hexec
  have hblock := exec_block hexec
  cases i with
  | cmdStart => exact hblock.trans (Block.start_of_error herror)
  | cmdFinish => exact hblock.trans (Block.finish_of_error herror)
  | cmdIllegal _ => exact hblock.trans (Block.illegalCommand_of_error herror)
  | wrDin v => exact hblock.trans (Block.feed_of_error (dinByte v) herror)
  | rdDout v =>
    rw [exec_rdDout_of_none v (by simp [herror])] at hexec
    cases hexec
    exact ⟨rfl, rfl⟩
  | _ => exact hblock

/-- In ERROR every access but ABORT keeps the phase: the table of 40_host_commands.md R137. -/
theorem eq_cmdAbort_of_leaves_error {i : Instr} {s t : State} (hexec : exec i s = .next t)
    (herror : s.block.phase = .error) (hleaves : t.block.phase ≠ .error) : i = .cmdAbort := by
  have hrow := phaseTransitionsFollowTheTable i s t hexec
  rw [herror] at hrow
  cases i with
  | cmdAbort => rfl
  | _ =>
    obtain ⟨hkeeps, _⟩ := hrow
    exact absurd hkeeps hleaves

/-- Settles O33: a step is nothing, an access or reset (`step_cases`), and the only access that leaves ERROR is ABORT,
whose descriptor is the one that decodes to it. -/
theorem onlyAbortOrResetLeavesError : Obligations.OnlyAbortOrResetLeavesError := by
  intro s t hstep herror hleaves
  obtain ⟨_, rfl⟩ | ⟨d, rest, hpending, hexec⟩ | ⟨rest, hpending, rfl⟩ := step_cases hstep
  · exact absurd herror hleaves
  · have habort : decode d = .cmdAbort := eq_cmdAbort_of_leaves_error hexec herror hleaves
    obtain rfl : encode .cmdAbort = d := habort ▸ (encodeOfDecodeIsTheDescriptor d).2
    rw [habort] at hexec
    cases hexec
    exact ⟨rfl, .inr ⟨rest, hpending, rfl, rfl⟩⟩
  · exact ⟨rfl, .inl ⟨rest, hpending⟩⟩

/-! ## Between accesses (60_exceptions.md R317) -/

/-- Settles O10: the first arm of `step`. -/
theorem stepWithoutAnEventKeepsTheState : Obligations.StepWithoutAnEventKeepsTheState := by
  intro s hpending
  rw [step, hpending]

end Sys2Proof.Machine
end

section
/-! PROOFS. The reset event, DOUT outside DONE, and the host protocol for one image (70_reset_and_hazards.md R340, R343,
R346). -/

namespace Sys2Proof.Machine

/-! ## The reset event (70_reset_and_hazards.md R340) -/

theorem step_reset {s : State} {rest : List HostEvent} (h : s.pending = .reset :: rest) :
    step s = .next (State.applyReset { s with pending := rest }) := by
  rw [step, h]

theorem statusWord_reset : Block.reset.statusWord = 0x00000000#32 := Block.statusWord_of_idle rfl rfl

theorem exec_rdStatus_applyReset (s : State) (v : Word) :
    exec (.rdStatus v) s.applyReset = .next { s.applyReset with rdata := some 0x00000000#32 } := by
  rw [exec_rdStatus, State.applyReset_block, statusWord_reset]
  rfl

/-- Settles O7: the reset event leaves `State.applyReset`, whatever the phase was, and each read is run there. -/
theorem resetEventSetsEveryField : Obligations.ResetEventSetsEveryField := by
  intro s rest hpending
  exact ⟨_, step_reset hpending, rfl, rfl, rfl, exec_rdStatus_applyReset _ _, rfl, rfl, rfl, rfl, rfl, rfl⟩

/-! ## DOUT outside DONE, and a data byte 0x00 (70_reset_and_hazards.md R346) -/

/-- Settles O36: outside DONE a DOUT read has no byte to give; in DONE it pops the head, and `doutWord` of the byte 0x00
is 0x100. -/
theorem doutGivesNoByteOutsideDone : Obligations.DoutGivesNoByteOutsideDone :=
  fun _ ignored => ⟨fun hphase => exec_rdDout_of_none ignored fun ⟨hdone, _⟩ => hphase hdone,
    fun _ hdone hqueue => exec_rdDout_of_cons ignored hdone hqueue⟩

/-! ## The host protocol (70_reset_and_hazards.md R343) -/

/-- Two sessions, one after the other. -/
theorem session_append {es es' : List HostEvent} {s t u : State} {vs ws : List Word} (h : session es s = some (vs, t))
    (h' : session es' t = some (ws, u)) : session (es ++ es') s = some (vs ++ ws, u) := by
  induction es generalizing s vs with
  | nil =>
    cases h
    exact h'
  | cons e es ih =>
    rw [List.cons_append]
    unfold session at h ⊢
    split at h
    case h_1 r =>
      split at h
      case h_1 vs' t' hrest =>
        cases h
        simp only [ih hrest, List.append_assoc]
      case h_2 => cases h
    all_goals cases h

/-- The state after steps 1 and 2 of R343: an encode of `w` by `h` pixels that has accepted nothing. -/
def State.started (s : State) (w h : Word) : State :=
  { s with
    block := { phase := .accept, errcode := 0#4, width := w, height := h, wl := w, hl := h, inCount := 0, raw := [],
               outq := [], fileLen := 0 }
    pending := [], rdata := none }

theorem exec_cmdStart_started {s : State} {w h : Word} (hrest : s.block.Resting) (hdims : DimsLegal s.config w h) :
    exec .cmdStart { s with block := { s.block with width := w, height := h }, pending := [], rdata := none } =
      .next (s.started w h) :=
  exec_cmdStart_of_dimsLegal
    (s := { s with block := { s.block with width := w, height := h }, pending := [], rdata := none }) hrest hdims

/-- Steps 1 and 2: the dimensions and START. -/
theorem session_setup {s : State} {w h : Word} (hrest : s.block.Resting) (hdims : DimsLegal s.config w h) :
    session [HostEvent.of (.wrWidth w), HostEvent.of (.wrHeight h), HostEvent.of .cmdStart] s =
      some ([], s.started w h) :=
  session_cons rfl (exec_wrWidth _ w) <|
    session_cons rfl (exec_wrHeight _ h) <|
      session_cons (t := s.started w h) rfl (exec_cmdStart_started hrest hdims) rfl

/-- Step 3: the whole buffer. -/
theorem session_feed_started (s : State) {w h : Word} {data : List Word} (hlen : data.length = 4 * w.toNat * h.toNat)
    (hne : data ≠ []) :
    session (feedEvents data) (s.started w h) = some ([], (s.started w h).fed (data.map dinByte)) := by
  obtain ⟨v, data, rfl⟩ := List.exists_cons_of_ne_nil hne
  have hroom : 0 + (v :: data).length ≤ (s.started w h).block.bufferBytes := by
    rw [Nat.zero_add, hlen]
    exact Nat.le_refl _
  exact session_feedEvents_fed (bs := []) v data ⟨rfl, rfl, rfl⟩ hroom

/-- The state in which a FINISH that releases the file `F` leaves the block. -/
def State.released (s : State) (F : List Byte) : State :=
  { s with block := { s.block with outq := F, fileLen := F.length, phase := .done }, pending := [], rdata := none }

/-- Step 4: FINISH releases PNG_ENCODE of the accepted bytes. -/
theorem exec_cmdFinish_released {s : State} {bs F : List Byte} (hb : s.block.HasAccepted bs)
    (hw : 1 ≤ s.block.wl.toNat) (hlen : bs.length = s.block.bufferBytes)
    (hF : F = pngEncode s.config s.block.wl s.block.hl bs) (hlimit : F.length ≤ 2 ^ 31 - 1 + 57)
    (hcap : F.length ≤ s.config.outCap) :
    exec .cmdFinish { s with pending := [] } = .next (s.released F) := by
  obtain ⟨hphase, hcount, hraw⟩ := hb
  obtain rfl : F = s.block.file s.config := hF.trans (Block.file_eq_pngEncode hw hlen hraw).symm
  have hzlib : (zlib s.config s.block.raw).length ≤ 2 ^ 31 - 1 := by
    rw [Block.file, length_frame] at hlimit
    omega
  obtain ⟨_, _, _, _, hrelease⟩ := finishReleasesTheFile { s with pending := [] }
  exact hrelease hphase (hcount.trans hlen) hzlib hcap

theorem drainWords_length (q : List Byte) : drainWords q.length q = q.map doutWord := by
  simp [drainWords]

/-- Steps 5 and 6: STATUS, FILE_LEN and the whole queue. -/
theorem session_readFile {s : State} (hphase : s.block.phase = .done) (hcode : s.block.errcode = 0#4)
    (hqueue : s.block.outq ≠ []) :
    ∃ t, session ([HostEvent.of (.rdStatus 0#32), HostEvent.of (.rdFileLen 0#32)] ++
          drainEvents s.block.outq.length) s =
        some (0x00000006#32 :: BitVec.ofNat 32 s.block.fileLen :: s.block.outq.map doutWord, t) ∧
      t.block = { s.block with outq := [] } ∧ t.config = s.config := by
  have hstatus : s.block.statusWord = 0x00000006#32 := by rw [Block.statusWord_of_done hphase hcode, if_neg hqueue]
  obtain ⟨t, hdrain, hblock, hconfig⟩ :=
    session_drainEvents (s := { s with pending := [], rdata := some (BitVec.ofNat 32 s.block.fileLen) })
      s.block.outq.length hphase
  rw [drainWords_length] at hdrain
  rw [List.drop_length] at hblock
  refine ⟨t, ?_, hblock, hconfig⟩
  rw [← hstatus]
  exact session_cons rfl (exec_rdStatus _ _) (session_cons rfl (exec_rdFileLen _ _) hdrain)

theorem pngEncode_ne_nil (c : Config) (w h : Word) (buf : List Byte) : pngEncode c w h buf ≠ [] := by
  rw [← List.length_pos_iff, pngEncode, length_frame]
  omega

/-- Settles O60: START leaves an encode that has accepted nothing, the DIN writes fill it, and FINISH and the reads
deliver its file; the three sessions run one after the other. -/
theorem hostProtocolDeliversTheFile : Obligations.HostProtocolDeliversTheFile := by
  intro s w h data F _ hrest hdims hlen hlimit hcap
  have ⟨hw, _, hh, _, _⟩ := hdims
  have hne : data ≠ [] := by
    rw [← List.length_pos_iff, hlen]
    exact Nat.mul_pos (Nat.mul_pos (by decide) hw) hh
  have hsetup := session_setup hrest hdims
  have hfeed := session_feed_started s hlen hne
  have hfull : (data.map dinByte).length = 4 * w.toNat * h.toNat := by rw [List.length_map, hlen]
  have hfinish := exec_cmdFinish_released (s := (s.started w h).fed (data.map dinByte)) (F := F) ⟨rfl, rfl, rfl⟩ hw
    hfull rfl hlimit hcap
  obtain ⟨t, hread, hblock, hconfig⟩ := session_readFile (s := ((s.started w h).fed (data.map dinByte)).released F)
    rfl rfl (pngEncode_ne_nil _ _ _ _)
  refine ⟨t, ?_, congrArg Block.phase hblock, congrArg Block.outq hblock, congrArg Block.fileLen hblock, hconfig⟩
  rw [protocolEvents, List.append_assoc]
  exact session_append (session_append hsetup hfeed) (session_cons rfl hfinish hread)

end Sys2Proof.Machine
end
